-- ==== Sys2Proof/Word.lean ====
section
/-! DEFINITION. The bit-vector types of the AES-GCM-512 CORE (spec/00_scope.md rules R10 to R12).

A byte string of fixed length is held as ONE bit vector whose most significant byte is the string's first byte
(byte 0), so that the spec's `‖` is `++`, its `⊕` is `^^^`, and `be32` takes a field of bits. The accessors that fix
this byte order stand in `Sys2Proof/Machine/Operands.lean`. -/

namespace Sys2Proof

/-- A byte: an 8-bit unsigned value, bit 7 the most significant (R11). -/
abbrev Byte := BitVec 8

/-- A register word, a bus datum or a command word: 32 bits, bit 31 the most significant (R12). -/
abbrev Word := BitVec 32

/-- A block: a 16-byte string (R11); byte 0 is the most significant byte. -/
abbrev Block := BitVec 128

/-- The KEY string: 64 bytes (spec/10_state.md R28); byte 0 is the most significant byte. -/
abbrev KeyString := BitVec 512

end Sys2Proof
end

