-- ==== Sys2Proof/Machine/Operands.lean ====
section
/-! DEFINITION. Bytes and words of byte strings, and the operand forms of the commands (spec/00_scope.md rules R11,
R12, R16; spec/20_memory.md rules R54, R56; spec/43_ghash.md rule R162).

A string of `w` bits has its byte 0 in its most significant eight bits. -/

namespace Sys2Proof.Machine

/-- `B[k]`, byte `k` of a byte string (R11). -/
def byteAt {w : Nat} (b : BitVec w) (k : Nat) : Byte := b.extractLsb' (w - 8 * (k + 1)) 8

/-- `be32(B, j)`: bytes `4j` to `4j+3`, the first in bits [31:24] (R12). -/
def be32 {w : Nat} (b : BitVec w) (j : Nat) : Word := b.extractLsb' (w - 32 * (j + 1)) 32

/-- `set_be32(REG, j, v)`: replaces bytes `4j` to `4j+3` with the bytes of `v`, most significant first (R56). -/
def setBe32 {w : Nat} (b : BitVec w) (j : Nat) (v : Word) : BitVec w :=
  (b &&& ~~~((0xFFFFFFFF#32).setWidth w <<< (w - 32 * (j + 1)))) ||| (v.setWidth w <<< (w - 32 * (j + 1)))

/-- The four bytes as a string, first byte first. -/
def wordOfBytes (b0 b1 b2 b3 : Byte) : Word := b0 ++ b1 ++ b2 ++ b3

/-- The four words as a 16-byte string, first word first. -/
def blockOfWords (w0 w1 w2 w3 : Word) : Block := w0 ++ w1 ++ w2 ++ w3

/-- The block whose byte `k` is `f k`, for `k = 0..15`. -/
def blockOfBytes (f : Nat → Byte) : Block :=
  blockOfWords (wordOfBytes (f 0) (f 1) (f 2) (f 3)) (wordOfBytes (f 4) (f 5) (f 6) (f 7))
    (wordOfBytes (f 8) (f 9) (f 10) (f 11)) (wordOfBytes (f 12) (f 13) (f 14) (f 15))

/-- Bit `i` of a block in the GCM bit order: bit `7 - (i mod 8)` of byte `i / 8` (R16). -/
def gcmBit (b : Block) (i : Nat) : Bool := (byteAt b (i / 8)).getLsbD (7 - i % 8)

/-- `B[0 .. n) ‖ 0^(8·(16-n))`: the first `n` bytes, padded with zeros to a block (R161, R162). -/
def padBlock (n : Nat) (b : Block) : Block := blockOfBytes fun k => if k < n then byteAt b k else 0

end Sys2Proof.Machine
end

