-- ==== Sys2Proof/Config.lean ====
section
/-! DEFINITION. What one build and one platform fix (spec/00_scope.md rules R7 to R9).

`KEYW` is an argument of the model: it is the field `keyw` of State, which no step changes, and every meaning reads it
there. `Config.keyWidth` only says which build `State.reset` is the reset state of. `BASE` and `CMD_CYCLES` are left
open by the spec: no rule's effect depends on either, and they are opaque here. -/

namespace Sys2Proof

/-- The build-time key width `KEYW` (R7): exactly one of the four is selected per build. -/
inductive KeyWidth where
  /-- `KEYW = 128` -/
  | k128
  /-- `KEYW = 192` -/
  | k192
  /-- `KEYW = 256` -/
  | k256
  /-- `KEYW = 512`, the non-standard extension (R3) -/
  | k512
  deriving DecidableEq, Repr

/-- The build whose reset state is `State.reset`. DESIGN CHOICE (assumption log 1): the spec fixes no build. -/
def Config.keyWidth : KeyWidth := .k128

/-- Which 256-byte slot of the host's address space the platform gives the window: free (R9, R51). -/
opaque Config.baseSlot : Nat

/-- `BASE`, the host address of the register window: the platform's choice, 256-byte aligned (R9). -/
def Config.base : Nat := 256 * Config.baseSlot

/-- The host address of the window's byte offset `off` (R51). -/
def Config.hostAddress (off : BitVec 8) : Nat := Config.base + off.toNat

/-- The cycles beyond the first that a command occupies the block for: free, and a function of the build and the
opcode only (R9; spec/70_reset_and_hazards.md R223). -/
opaque Config.extraCycles : KeyWidth → Byte → Nat

/-- `CMD_CYCLES(op)`: at least 1 (R9, R223). No step reads it: the model has no time. -/
def Config.cmdCycles (w : KeyWidth) (op : Byte) : Nat := Config.extraCycles w op + 1

end Sys2Proof
end

