-- ==== Sys2Proof/Syntax.lean ====
section
/-! DEFINITION. The nine commands (spec/30_encoding.md rules R81 to R85) and the command errors
(spec/60_exceptions.md rule R180). -/

namespace Sys2Proof

/-- A command, one constructor per row of spec/opcode_table.json. Every other operand of a command is a fixed
register (R84). -/
inductive Instr where
  /-- KEYEXP (R110), format K: expand the key; `ksz` is the width code the host intends (R82). -/
  | keyexp (ksz : BitVec 2)
  /-- ZEROIZE (R112), format N: erase all key-derived and data state. -/
  | zeroize
  /-- ENCB (R140), format N: encrypt DIN into DOUT. -/
  | encb
  /-- HGEN (R141), format N: generate the hash subkey H. -/
  | hgen
  /-- GMUL (R155), format N: multiply DIN by H in GF(2^128). -/
  | gmul
  /-- GHINIT (R160), format N: clear the GHASH accumulator. -/
  | ghinit
  /-- GHASH (R161), format L: absorb the first `len` bytes of DIN (R83). -/
  | ghash (len : BitVec 5)
  /-- CTRX (R172), format L: XOR the first `len` bytes of DIN with the next keystream block (R83). -/
  | ctrx (len : BitVec 5)
  /-- CTRINC (R173), format N: advance the counter. -/
  | ctrinc
  deriving DecidableEq, Repr

/-- The three formats of the command word (R81). -/
inductive Format where
  /-- no operand: bits [31:8] reserved -/
  | n
  /-- key size: KSZ in [9:8], bits [31:10] reserved -/
  | k
  /-- length: LEN in [12:8], bits [31:13] reserved -/
  | l
  deriving DecidableEq, Repr

/-- The causes for which a command is rejected (R180). Codes 6 and 7 (INTERNAL) are reserved and raised by no rule, so
they are no constructors. -/
inductive CmdError where
  /-- code 1: `w[7:0]` is not an assigned opcode -/
  | illegalOp
  /-- code 2: a reserved bit of the opcode's format is 1 -/
  | rsvdBits
  /-- code 3: LEN = 0 or LEN > 16 -/
  | badLen
  /-- code 4: KSZ is not the build's -/
  | keySize
  /-- code 5: KVALID = 0 -/
  | noKey
  deriving DecidableEq, Repr

end Sys2Proof
end

