-- ==== Sys2Proof/WellFormed.lean ====
section
/-! DEFINITION. Which commands have a legal operand (spec/30_encoding.md rules R82, R83, R87). -/

namespace Sys2Proof

/-- A legal LEN: 1 to 16 (R83). -/
def legalLen (len : BitVec 5) : Bool := 1 ≤ len.toNat && len.toNat ≤ 16

/-- A command with a legal length, on whatever build. Every KSZ code is one of the four widths (R82); whether it is
the build's is `legalFor` in `Sys2Proof/Safety.lean`. -/
def wellFormed : Instr → Bool
  | .keyexp _ => true
  | .zeroize => true
  | .encb => true
  | .hgen => true
  | .gmul => true
  | .ghinit => true
  | .ghash len => legalLen len
  | .ctrx len => legalLen len
  | .ctrinc => true

end Sys2Proof
end

