-- ==== Sys2Proof/Decode.lean ====
section
/-! DEFINITION. The decoder of a command word and, after it, the encoder (spec/30_encoding.md rules R80 to R87).

Every command is one 32-bit word, the value of one bus write (R80), so the decoder reads a `Word` and no byte order
enters. It makes checks 1 and 2 of spec/60_exceptions.md rule R183; the legality of a field's value is checked after
selection (R85), by the meaning of the command selected. -/

namespace Sys2Proof

/-- `OP = w[7:0]` (R81). -/
def opField (w : Word) : Byte := w.extractLsb' 0 8

/-- `KSZ = w[9:8]` (R82). -/
def kszField (w : Word) : BitVec 2 := w.extractLsb' 8 2

/-- `LEN = w[12:8]` (R83). -/
def lenField (w : Word) : BitVec 5 := w.extractLsb' 8 5

/-- Whether every reserved bit of the format is 0 (R81): `w[31:8]`, `w[31:10]` or `w[31:13]`. -/
def reservedClear : Format → Word → Bool
  | .n, w => w.extractLsb' 8 24 == 0
  | .k, w => w.extractLsb' 10 22 == 0
  | .l, w => w.extractLsb' 13 19 == 0

/-- The command an assigned opcode selects, with its operand taken from `w`, and the opcode's format (R85). -/
def select (w : Word) : Option (Format × Instr) :=
  if opField w = 0x01 then some (.k, .keyexp (kszField w))
  else if opField w = 0x02 then some (.n, .zeroize)
  else if opField w = 0x10 then some (.n, .encb)
  else if opField w = 0x11 then some (.n, .hgen)
  else if opField w = 0x20 then some (.n, .gmul)
  else if opField w = 0x30 then some (.n, .ghinit)
  else if opField w = 0x31 then some (.l, .ghash (lenField w))
  else if opField w = 0x40 then some (.l, .ctrx (lenField w))
  else if opField w = 0x41 then some (.n, .ctrinc)
  else none

/-- The command a word carries, or the error it is rejected with: ILLEGAL_OP before RSVD_BITS (R86, R183).
DEDUCED (assumption log 17): R183's example says that 0x00002040 reports BAD_LEN, but its bit 13 is set, so that R81 and
R183's own pseudocode make it RSVD_BITS, which is what is answered here. Unsafe for a claim about that word's code. -/
def decode (w : Word) : Except CmdError Instr :=
  match select w with
  | none => .error .illegalOp
  | some (f, i) => if reservedClear f w then .ok i else .error .rsvdBits

/-- The command's opcode (R85). -/
def opcode : Instr → Byte
  | .keyexp _ => 0x01
  | .zeroize => 0x02
  | .encb => 0x10
  | .hgen => 0x11
  | .gmul => 0x20
  | .ghinit => 0x30
  | .ghash _ => 0x31
  | .ctrx _ => 0x40
  | .ctrinc => 0x41

/-- The command's format (R85). -/
def format : Instr → Format
  | .keyexp _ => .k
  | .zeroize => .n
  | .encb => .n
  | .hgen => .n
  | .gmul => .n
  | .ghinit => .n
  | .ghash _ => .l
  | .ctrx _ => .l
  | .ctrinc => .n

/-- Bits [31:8] of the command's word: its operand, if any, and zeros (R81). -/
def operandBits : Instr → BitVec 24
  | .keyexp ksz => ksz.setWidth 24
  | .zeroize => 0
  | .encb => 0
  | .hgen => 0
  | .gmul => 0
  | .ghinit => 0
  | .ghash len => len.setWidth 24
  | .ctrx len => len.setWidth 24
  | .ctrinc => 0

/-- The command's word (R81, R85, R88). -/
def encode (i : Instr) : Word := operandBits i ++ opcode i

/-- The 32-bit word whose bits are the low `nbits` of `w` and zeros above. -/
def tableWord (nbits w : Nat) : Word := BitVec.ofNat 32 (w % 2 ^ nbits)

/-- The command the decoder reads from a word numbered as spec/opcode_table.json numbers its bits. A command is one
32-bit word (R80): a number that does not fit in it is none. -/
def decodeTableWord (nbits w : Nat) : Option Instr :=
  if w % 2 ^ nbits < 2 ^ 32 then
    match decode (tableWord nbits w) with
    | .ok i => some i
    | .error _ => none
  else none

end Sys2Proof
end

