-- ==== Sys2Proof/Machine/Params.lean ====
section
/-! DEFINITION. The parameters derived from the build's key width (spec/00_scope.md rule R8). -/

namespace Sys2Proof

/-- The key width in bits (R7). -/
def KeyWidth.bits : KeyWidth → Nat
  | .k128 => 128
  | .k192 => 192
  | .k256 => 256
  | .k512 => 512

/-- The KSZ code of the width (R8, R82). -/
def KeyWidth.ksz : KeyWidth → BitVec 2
  | .k128 => 0
  | .k192 => 1
  | .k256 => 2
  | .k512 => 3

/-- `Nk = KEYW / 32`, the key size in words (R8). -/
def KeyWidth.nk (w : KeyWidth) : Nat := w.bits / 32

/-- `Nr = Nk + 6`, the number of rounds (R8). -/
def KeyWidth.nr (w : KeyWidth) : Nat := w.nk + 6

/-- `Nb = 4`, the number of columns in the state (R8). -/
def nb : Nat := 4

/-- The number of round keys, `Nr + 1` (R8, spec/10_state.md R30). -/
def KeyWidth.roundKeys (w : KeyWidth) : Nat := w.nr + 1

/-- The number of schedule words, `4·(Nr+1)` (R8). -/
def KeyWidth.rkWords (w : KeyWidth) : Nat := nb * w.roundKeys

end Sys2Proof
end

