-- ==== Sys2Proof/Machine/State.lean ====
section
/-! DEFINITION. The architectural state of the block (spec/10_state.md rule R42), the host's requests and the block's
response (spec/20_memory.md rules R50, R51), and the state after reset (spec/70_reset_and_hazards.md rule R210).

There is no program counter (R21), no general register (R39) and no memory array (R68). CMD has no storage (R24); ID
and CFG are constants of the build (R22, R23), computed where they are read. -/

namespace Sys2Proof.Machine

/-- The reasons for which the machine stops. Nothing raises one: a rejected command is recorded and the machine goes on
(R182), and a bad bus request is answered with an error response (R57). -/
inductive Fault where
  /-- The internal inconsistency of R180's reserved code 7, which no rule raises (decision D29). Raised by no meaning
  and by no step: safe. -/
  | internalInconsistency
  deriving DecidableEq, Repr

/-- The reasons for which the model gives no meaning. -/
inductive Refusal where
  /-- A command without a meaning, by its mnemonic. Raised only by an arm of `exec` that has none: safe. -/
  | notModelled (mnemonic : String)
  deriving DecidableEq, Repr

/-- One bus request (R50): `req_write`, `req_addr`, `req_size` and `req_wdata`. -/
structure Request where
  /-- true = write, false = read -/
  write : Bool
  /-- the byte offset within the window -/
  addr : BitVec 8
  /-- 0 = 8-bit, 1 = 16-bit, 2 = 32-bit, 3 = reserved -/
  size : BitVec 2
  /-- the write data -/
  wdata : Word
  deriving DecidableEq, Repr

/-- The response to an accepted request (R50): `rsp_rdata` and `rsp_err`. -/
structure Response where
  /-- the read data; 0 for a write or an error -/
  rdata : Word
  /-- true = bus error response (R57) -/
  err : Bool
  deriving DecidableEq, Repr

/-- What the outside world does to the block: a bus request the block accepts, or reset (R51). -/
inductive HostEvent where
  /-- The host's request is accepted and takes effect as one atomic step (R51, R61). -/
  | request (r : Request)
  /-- `rst` is asserted (R210), while the request `abandoned`, if any, is in progress: it gets no response. -/
  | reset (abandoned : Option Request)
  deriving DecidableEq, Repr

/-- The state of the machine. The last two fields are the model's own: the outside world's next events and the block's
last response (assumption log 2, 3). -/
structure State where
  /-- the build's key width, which no step changes (R7); CFG is a function of it (R23) -/
  keyw : KeyWidth
  /-- STATUS[0], KVALID (R25, R32) -/
  kvalid : Bool
  /-- STATUS[1], ERR (R25) -/
  err : Bool
  /-- STATUS[6:4], ERRCODE (R25) -/
  errcode : BitVec 3
  /-- ERRCMD, the command word that set ERR (R27) -/
  errcmd : Word
  /-- KEY, 64 bytes (R28) -/
  key : KeyString
  /-- RK, the round keys 0 to Nr (R30) -/
  rk : List Block
  /-- DIN (R33) -/
  din : Block
  /-- DOUT (R34) -/
  dout : Block
  /-- H, the hash subkey (R35) -/
  h : Block
  /-- S, the GHASH accumulator (R36) -/
  s : Block
  /-- CTR, the counter block (R37) -/
  ctr : Block
  /-- the response to the request taken by the last step; none when that step took no request (R50) -/
  rsp : Option Response
  /-- the outside world's next events, in the order in which the block takes them (R62) -/
  pending : List HostEvent
  deriving DecidableEq, Repr

/-- The reset state of the build of width `w` (R42, R210): every register zero, no schedule, no error; no response
present and no event waiting. -/
def State.resetOf (w : KeyWidth) : State :=
  { keyw := w
    kvalid := false
    err := false
    errcode := 0
    errcmd := 0
    key := 0
    rk := List.replicate w.roundKeys 0
    din := 0
    dout := 0
    h := 0
    s := 0
    ctr := 0
    rsp := none
    pending := [] }

/-- The machine right after reset, on the build `Config.keyWidth` (assumption log 1). -/
def State.reset : State := State.resetOf Config.keyWidth

end Sys2Proof.Machine
end

