-- ==== Sys2Proof/Machine/Flags.lean ====
section
/-! DEFINITION. The words the control registers read as: ID, CFG and STATUS with its flags (spec/10_state.md rules R22,
R23, R25, R38) and the error codes (spec/60_exceptions.md rule R180). There are no condition codes (R38). -/

namespace Sys2Proof

/-- The code of an error in STATUS.ERRCODE (R180). -/
def CmdError.code : CmdError → BitVec 3
  | .illegalOp => 1
  | .rsvdBits => 2
  | .badLen => 3
  | .keySize => 4
  | .noKey => 5

namespace Machine

/-- ID (R22). -/
def idWord : Word := 0x41454701

/-- CFG: KSZ in [1:0], NK in [12:8], NR in [20:16] (R23). -/
def cfgWord (w : KeyWidth) : Word :=
  (BitVec.ofNat 32 w.nr <<< 16) ||| (BitVec.ofNat 32 w.nk <<< 8) ||| w.ksz.setWidth 32

/-- STATUS: `zext_32(ERRCODE << 4 | ERR << 1 | KVALID)` (R25, R55). -/
def State.statusWord (s : State) : Word :=
  (s.errcode.setWidth 32 <<< 4) ||| ((BitVec.ofBool s.err).setWidth 32 <<< 1) ||| (BitVec.ofBool s.kvalid).setWidth 32

end Machine

end Sys2Proof
end

