-- ==== Sys2Proof/Machine/Ops.lean ====
section
/-! DEFINITION. The named operations over the registers, the rejection of a command and the return from fail-stop
(spec/60_exceptions.md rules R181 to R187), ZEROIZE's erasure and reset. -/

namespace Sys2Proof.Machine

/-! ## Registers -/

/-- `KEY <- v` (R28, R29). -/
def State.setKey (st : State) (v : KeyString) : State := { st with key := v }

/-- `RK <- v; KVALID <- 1`: a performed KEYEXP (R32, R110). -/
def State.setSchedule (st : State) (v : List Block) : State := { st with rk := v, kvalid := true }

/-- `DIN <- v` (R33). -/
def State.setDin (st : State) (v : Block) : State := { st with din := v }

/-- `DOUT <- v` (R34). -/
def State.setDout (st : State) (v : Block) : State := { st with dout := v }

/-- `H <- v` (R35). -/
def State.setH (st : State) (v : Block) : State := { st with h := v }

/-- `S <- v` (R36). -/
def State.setS (st : State) (v : Block) : State := { st with s := v }

/-- `CTR <- v` (R37). -/
def State.setCtr (st : State) (v : Block) : State := { st with ctr := v }

/-- The response the block gives in this step (R50). -/
def State.setRsp (st : State) (r : Option Response) : State := { st with rsp := r }

/-- The events still to come (R62). -/
def State.setPending (st : State) (es : List HostEvent) : State := { st with pending := es }

/-- Round key `r`, `RK[16r .. 16r+16)` (R30). Only round keys 0 to Nr are read. -/
def roundKey (rk : List Block) (r : Nat) : Block := rk.getD r 0

/-- The number of valid bytes that LEN counts: not scaled, no bias (R83). -/
def byteCount (len : BitVec 5) : Nat := len.toNat

/-! ## Errors: entry and return -/

/-- `raise CmdError(code)` for command word `w`: `ERR <- 1; ERRCODE <- code; ERRCMD <- w`, and nothing else (R182). -/
def State.raiseCmdError (st : State) (c : CmdError) (w : Word) : State :=
  { st with err := true, errcode := c.code, errcmd := w }

/-- `ClearError()`: `ERR <- 0; ERRCODE <- 0; ERRCMD <- 0`, and nothing else (R187). -/
def State.clearError (st : State) : State := { st with err := false, errcode := 0, errcmd := 0 }

/-- Check 3: LEN must be 1 to 16, else BAD_LEN (R183). -/
def lenError (len : BitVec 5) : Option CmdError := if legalLen len then none else some .badLen

/-- Check 4: KSZ must be CFG.KSZ, else KEYSIZE (R110, R183). -/
def kszError (ksz : BitVec 2) (st : State) : Option CmdError :=
  if ksz = st.keyw.ksz then none else some .keySize

/-- Check 5: KVALID must be 1, else NOKEY (R183). -/
def keyError (st : State) : Option CmdError := if st.kvalid then none else some .noKey

/-- `Command(w)` for every command but ZEROIZE (R181): while ERR = 1 the word is discarded (R184); else the first
failing check, given in `check`, is recorded and the command is abandoned (R182, R183); else the command is performed and
leaves `performed`. Every check comes before the first write. -/
def runCommand (w : Word) (check : Option CmdError) (performed : State) (st : State) :
    Host.Outcome State Fault Refusal :=
  if st.err then .next st
  else match check with
    | some c => .next (st.raiseCmdError c w)
    | none => .next performed

/-! ## Erasure and reset -/

/-- ZEROIZE's body (R112): KEY, RK, KVALID, DIN, DOUT, H, S and CTR become zero; the error record stays (R185). -/
def State.zeroize (st : State) : State :=
  { st with
    key := 0
    rk := List.replicate st.keyw.roundKeys 0
    kvalid := false
    din := 0
    dout := 0
    h := 0
    s := 0
    ctr := 0 }

/-- Reset (R210): every register takes its reset value; no response is given and the host's later events wait. -/
def State.applyReset (st : State) : State := (State.resetOf st.keyw).setPending st.pending

end Sys2Proof.Machine
end

