-- ==== Sys2Proof/Machine/BlockCipher.lean ====
section
/-! DEFINITION. C2, the AES block-cipher core: GF(2^8), the S-box, the round steps, `Cipher`, and the commands ENCB and
HGEN (spec/41_block_cipher.md). There is one datapath (R132) and no inverse cipher (R133). -/

namespace Sys2Proof.Machine

/-! ## GF(2^8) -/

/-- Multiplication by 02 (R120). -/
def xtime (b : Byte) : Byte := (b <<< 1) ^^^ (if b.getLsbD 7 then 0x1B else 0x00)

/-- One iteration of the product's loop: `(r, a)` at bit `k` of `b` (R121). -/
def gf8Step (b : Byte) (p : Byte × Byte) (k : Nat) : Byte × Byte :=
  (if b.getLsbD k then p.1 ^^^ p.2 else p.1, xtime p.2)

/-- The product `a • b` (R121). -/
def gf8mul (a b : Byte) : Byte := ((List.range 8).foldl (gf8Step b) (0, a)).1

/-! ## S-box -/

/-- Row `hi` of the S-box table (R124): its column `lo` is byte `lo`. -/
def sboxRow : Nat → Block
  | 0x0 => 0x637c777bf26b6fc53001672bfed7ab76
  | 0x1 => 0xca82c97dfa5947f0add4a2af9ca472c0
  | 0x2 => 0xb7fd9326363ff7cc34a5e5f171d83115
  | 0x3 => 0x04c723c31896059a071280e2eb27b275
  | 0x4 => 0x09832c1a1b6e5aa0523bd6b329e32f84
  | 0x5 => 0x53d100ed20fcb15b6acbbe394a4c58cf
  | 0x6 => 0xd0efaafb434d338545f9027f503c9fa8
  | 0x7 => 0x51a3408f929d38f5bcb6da2110fff3d2
  | 0x8 => 0xcd0c13ec5f974417c4a77e3d645d1973
  | 0x9 => 0x60814fdc222a908846eeb814de5e0bdb
  | 0xa => 0xe0323a0a4906245cc2d3ac629195e479
  | 0xb => 0xe7c8376d8dd54ea96c56f4ea657aae08
  | 0xc => 0xba78252e1ca6b4c6e8dd741f4bbd8b8a
  | 0xd => 0x703eb5664803f60e613557b986c11d9e
  | 0xe => 0xe1f8981169d98e949b1e87e9ce5528df
  | _ => 0x8ca1890dbfe6426841992d0fb054bb16

/-- `Sbox(b)`, by the table (R124). -/
def sbox (b : Byte) : Byte := byteAt (sboxRow (b.toNat / 16)) (b.toNat % 16)

/-- The affine map of the S-box's formula: `y ⊕ rotl8(y,1) ⊕ rotl8(y,2) ⊕ rotl8(y,3) ⊕ rotl8(y,4)` (R123). -/
def sboxAffine (y : Byte) : Byte :=
  y ^^^ y.rotateLeft 1 ^^^ y.rotateLeft 2 ^^^ y.rotateLeft 3 ^^^ y.rotateLeft 4

/-! ## Round steps: the state is the 16-byte string, `s[r][c]` its byte `4c + r` (R122) -/

/-- `state'[k] = Sbox(state[k])` (R125). -/
def subBytes (st : Block) : Block := blockOfBytes fun k => sbox (byteAt st k)

/-- `s'[r][c] = s[r][(c + r) mod 4]` (R126). -/
def shiftRows (st : Block) : Block := blockOfBytes fun k => byteAt st (4 * ((k / 4 + k % 4) % 4) + k % 4)

/-- Row `r` of the product of the column `a0 a1 a2 a3` by the fixed matrix (R127). -/
def mixByte (a0 a1 a2 a3 : Byte) : Nat → Byte
  | 0 => xtime a0 ^^^ (xtime a1 ^^^ a1) ^^^ a2 ^^^ a3
  | 1 => a0 ^^^ xtime a1 ^^^ (xtime a2 ^^^ a2) ^^^ a3
  | 2 => a0 ^^^ a1 ^^^ xtime a2 ^^^ (xtime a3 ^^^ a3)
  | _ => (xtime a0 ^^^ a0) ^^^ a1 ^^^ a2 ^^^ xtime a3

/-- Every column multiplied by the fixed matrix over GF(2^8) (R127). -/
def mixColumns (st : Block) : Block := blockOfBytes fun k =>
  mixByte (byteAt st (4 * (k / 4))) (byteAt st (4 * (k / 4) + 1)) (byteAt st (4 * (k / 4) + 2))
    (byteAt st (4 * (k / 4) + 3)) (k % 4)

/-- `state'[k] = state[k] ⊕ RK[16·round + k]` (R128). -/
def addRoundKey (rk : List Block) (round : Nat) (st : Block) : Block := st ^^^ roundKey rk round

/-! ## The cipher -/

/-- A full round: SubBytes, ShiftRows, MixColumns, AddRoundKey (R131). -/
def fullRound (rk : List Block) (round : Nat) (st : Block) : Block :=
  addRoundKey rk round (mixColumns (shiftRows (subBytes st)))

/-- Full rounds 1 to `n`, in order (R131). -/
def fullRounds (rk : List Block) : Nat → Block → Block
  | 0, st => st
  | n + 1, st => fullRound rk (n + 1) (fullRounds rk n st)

/-- The final round `nr`, without MixColumns (R131). -/
def finalRound (rk : List Block) (nr : Nat) (st : Block) : Block :=
  addRoundKey rk nr (shiftRows (subBytes st))

/-- `Cipher(B, RK)` on a build of `nr` rounds (R131). -/
def cipher (nr : Nat) (rk : List Block) (b : Block) : Block :=
  finalRound rk nr (fullRounds rk (nr - 1) (addRoundKey rk 0 b))

/-- `Cipher(B, RK)` under the schedule the block holds. -/
def State.cipher (st : State) (b : Block) : Block := Sys2Proof.Machine.cipher st.keyw.nr st.rk b

/-! ## Commands -/

/-- ENCB: `DOUT <- Cipher(DIN, RK)`; NOKEY if KVALID = 0 (R140). -/
def execEncb (st : State) : Host.Outcome State Fault Refusal :=
  runCommand (encode .encb) (keyError st) (st.setDout (st.cipher st.din)) st

/-- HGEN: `H <- Cipher(0^128, RK)`; NOKEY if KVALID = 0 (R141). -/
def execHgen (st : State) : Host.Outcome State Fault Refusal :=
  runCommand (encode .hgen) (keyError st) (st.setH (st.cipher 0)) st

end Sys2Proof.Machine
end

