-- ==== Sys2Proof/Machine/Ctr.lean ====
section
/-! DEFINITION. C5, the CTR keystream generator, and the commands CTRX and CTRINC (spec/44_ctr.md). -/

namespace Sys2Proof.Machine

/-- `inc32(C)`: the last four bytes, a big-endian number, plus 1 mod 2^32; `C[0 .. 12)` unchanged (R170). -/
def inc32 (c : Block) : Block := setBe32 c 3 (be32 c 3 + 1)

/-- `DIN[k] ⊕ KS[k]` for the first `n` bytes, and zeros after them (R172). -/
def xorPrefix (n : Nat) (din ks : Block) : Block :=
  blockOfBytes fun k => if k < n then byteAt din k ^^^ byteAt ks k else 0x00

/-- CTRX: `DOUT <- DIN ⊕ Cipher(CTR, RK)` on the first LEN bytes, zeros after them, and `CTR <- inc32(CTR)`; BAD_LEN
unless LEN is 1 to 16, then NOKEY if KVALID = 0 (R172, R183). -/
def execCtrx (len : BitVec 5) (st : State) : Host.Outcome State Fault Refusal :=
  runCommand (encode (.ctrx len)) ((lenError len).or (keyError st))
    ((st.setDout (xorPrefix (byteCount len) st.din (st.cipher st.ctr))).setCtr (inc32 st.ctr)) st

/-- CTRINC: `CTR <- inc32(CTR)`; no key is required (R173). -/
def execCtrinc (st : State) : Host.Outcome State Fault Refusal :=
  runCommand (encode .ctrinc) none (st.setCtr (inc32 st.ctr)) st

end Sys2Proof.Machine
end

