-- ==== Sys2Proof/Machine/Gf128.lean ====
section
/-! DEFINITION. C3, the GF(2^128) multiplier with full reduction, and the command GMUL (spec/42_gf128.md). -/

namespace Sys2Proof.Machine

/-- The reduction feedback: 0xE1 in byte 0 (R150). -/
def gcmFeedback : Block := 0xE1000000000000000000000000000000

/-- `V` after one iteration: shifted right by one bit, with 0xE1 XORed into byte 0 if the bit shifted out was 1
(R150, R151). -/
def gmulShift (v : Block) : Block := (v >>> 1) ^^^ (if v.getLsbD 0 then gcmFeedback else 0)

/-- One iteration of the loop: `(Z, V)` at bit `i` of `X` (R150). -/
def gmulStep (x : Block) (p : Block × Block) (i : Nat) : Block × Block :=
  (if gcmBit x i then p.1 ^^^ p.2 else p.1, gmulShift p.2)

/-- `gmul(X, Y)`: 128 iterations from `Z = 0`, `V = Y` (R150). -/
def gmul (x y : Block) : Block := ((List.range 128).foldl (gmulStep x) (0, y)).1

/-- GMUL: `DOUT <- gmul(DIN, H)`; no key is required (R155). -/
def execGmul (st : State) : Host.Outcome State Fault Refusal :=
  runCommand (encode .gmul) none (st.setDout (gmul st.din st.h)) st

end Sys2Proof.Machine
end

