-- ==== Sys2Proof/Machine/Ghash.lean ====
section
/-! DEFINITION. C4, the GHASH engine, and the commands GHINIT and GHASH (spec/43_ghash.md). -/

namespace Sys2Proof.Machine

/-- One absorption: `S ← gmul(S ⊕ B, H)` (R161). -/
def absorb (h s b : Block) : Block := gmul (s ^^^ b) h

/-- GHINIT: `S <- 0^128`; no key is required (R160). -/
def execGhinit (st : State) : Host.Outcome State Fault Refusal :=
  runCommand (encode .ghinit) none (st.setS 0) st

/-- GHASH: `S <- gmul(S ⊕ (DIN[0 .. n) ‖ 0), H)`; BAD_LEN unless LEN is 1 to 16; no key is required (R161). -/
def execGhash (len : BitVec 5) (st : State) : Host.Outcome State Fault Refusal :=
  runCommand (encode (.ghash len)) (lenError len) (st.setS (absorb st.h st.s (padBlock (byteCount len) st.din))) st

end Sys2Proof.Machine
end

