-- ==== Sys2Proof/Machine/KeySchedule.lean ====
section
/-! DEFINITION. C1, the key scheduler, and the commands KEYEXP and ZEROIZE (spec/40_key_schedule.md). No inverse
schedule is produced (R108). -/

namespace Sys2Proof.Machine

/-- The round constant of index `j`, by the recurrence (R101). -/
def rcon : Nat → Byte
  | 0 => 0x8d
  | j + 1 => xtime (rcon j)

/-- `RotWord([a0, a1, a2, a3]) = [a1, a2, a3, a0]` (R103). -/
def rotWord (a : Word) : Word := wordOfBytes (byteAt a 1) (byteAt a 2) (byteAt a 3) (byteAt a 0)

/-- The S-box applied to every byte (R104). -/
def subWord (a : Word) : Word :=
  wordOfBytes (sbox (byteAt a 0)) (sbox (byteAt a 1)) (sbox (byteAt a 2)) (sbox (byteAt a 3))

/-- Steps 2 and 3 of the expansion: what `tempa` becomes for the word at index `i` (R105). -/
def scheduleTemp (nk i : Nat) (tempa : Word) : Word :=
  if i % nk = 0 then subWord (rotWord tempa) ^^^ wordOfBytes (rcon (i / nk)) 0 0 0
  else if 6 < nk ∧ i % nk = 4 then subWord tempa
  else tempa

/-- `w_i = w_{i-Nk} ⊕ tempa`, where `ws` holds `w_0 .. w_{i-1}` (R105, steps 1 to 4). -/
def nextWord (nk : Nat) (ws : List Word) : Word :=
  ws.getD (ws.length - nk) 0 ^^^ scheduleTemp nk ws.length (ws.getD (ws.length - 1) 0)

/-- The next `n` words of the schedule, in order. -/
def expandWords (nk : Nat) : Nat → List Word → List Word
  | 0, ws => ws
  | n + 1, ws => expandWords nk n (ws ++ [nextWord nk ws])

/-- The schedule's words `w_0 .. w_{4(Nr+1)-1}` for the key `KEY[0 .. 4·Nk)` (R105). -/
def scheduleWords (w : KeyWidth) (key : KeyString) : List Word :=
  expandWords w.nk (w.rkWords - w.nk) ((List.range w.nk).map (be32 key))

/-- Round key `r` is the four words `w_{4r} .. w_{4r+3}` (R30, R100). -/
def packRoundKey (ws : List Word) (r : Nat) : Block :=
  blockOfWords (ws.getD (4 * r) 0) (ws.getD (4 * r + 1) 0) (ws.getD (4 * r + 2) 0) (ws.getD (4 * r + 3) 0)

/-- `KeyExpand(KEY[0 .. 4·Nk))` as the round keys 0 to Nr (R30, R100, R105). -/
def keyExpand (w : KeyWidth) (key : KeyString) : List Block :=
  (List.range w.roundKeys).map (packRoundKey (scheduleWords w key))

/-- KEYEXP: `RK <- KeyExpand(KEY[0 .. 4·Nk)); KVALID <- 1`; KEYSIZE if KSZ is not the build's (R110). -/
def execKeyexp (ksz : BitVec 2) (st : State) : Host.Outcome State Fault Refusal :=
  runCommand (encode (.keyexp ksz)) (kszError ksz st) (st.setSchedule (keyExpand st.keyw st.key)) st

/-- ZEROIZE: performed whatever ERR is (R112, R181, R185). -/
def execZeroize (st : State) : Host.Outcome State Fault Refusal := .next st.zeroize

end Sys2Proof.Machine
end

