-- ==== Sys2Proof/Machine/Dispatch.lean ====
section
/-! DEFINITION. One arm per command (spec/60_exceptions.md rule R181). -/

namespace Sys2Proof.Machine

def exec (i : Instr) (s : State) : Host.Outcome State Fault Refusal :=
  match i with
  | .keyexp ksz => Sys2Proof.Machine.execKeyexp ksz s
  | .zeroize => Sys2Proof.Machine.execZeroize s
  | .encb => Sys2Proof.Machine.execEncb s
  | .hgen => Sys2Proof.Machine.execHgen s
  | .gmul => Sys2Proof.Machine.execGmul s
  | .ghinit => Sys2Proof.Machine.execGhinit s
  | .ghash len => Sys2Proof.Machine.execGhash len s
  | .ctrx len => Sys2Proof.Machine.execCtrx len s
  | .ctrinc => Sys2Proof.Machine.execCtrinc s

end Sys2Proof.Machine
end

