-- ==== Sys2Proof/Machine/Bus.lean ====
section
/-! DEFINITION. The register window and the bus transactions (spec/20_memory.md rules R52 to R61), the command a CMD
write carries (spec/60_exceptions.md rule R181), and the taking of the next event. -/

namespace Sys2Proof.Machine

/-- The registers of the window (R52). RK has no offset (R31). -/
inductive Reg where
  /-- 0x00, read-only -/
  | id
  /-- 0x04, read-only -/
  | cfg
  /-- 0x08, write-only -/
  | cmd
  /-- 0x0C, read-only but for bit 1, write 1 to clear -/
  | status
  /-- 0x10, read-only -/
  | errcmd
  /-- 0x40 + 4j, write-only -/
  | key (j : Fin 16)
  /-- 0x80 + 4j, read/write -/
  | din (j : Fin 4)
  /-- 0x90 + 4j, read-only -/
  | dout (j : Fin 4)
  /-- 0xA0 + 4j, write-only -/
  | h (j : Fin 4)
  /-- 0xB0 + 4j, read/write -/
  | s (j : Fin 4)
  /-- 0xC0 + 4j, read/write -/
  | ctr (j : Fin 4)
  /-- 0x14 to 0x3C and 0xD0 to 0xFC: read 0, writes ignored (R53) -/
  | reserved
  deriving DecidableEq, Repr

/-- The word of a register at offset `off` that starts at `base`. -/
def wordIndex (n : Nat) [NeZero n] (off base : Nat) : Fin n := Fin.ofNat n ((off - base) / 4)

/-- The register at an offset that is a multiple of 4 (R52). -/
def regAt (off : BitVec 8) : Reg :=
  let o := off.toNat
  if o = 0x00 then .id
  else if o = 0x04 then .cfg
  else if o = 0x08 then .cmd
  else if o = 0x0C then .status
  else if o = 0x10 then .errcmd
  else if 0x40 ≤ o ∧ o ≤ 0x7C then .key (wordIndex 16 o 0x40)
  else if 0x80 ≤ o ∧ o ≤ 0x8C then .din (wordIndex 4 o 0x80)
  else if 0x90 ≤ o ∧ o ≤ 0x9C then .dout (wordIndex 4 o 0x90)
  else if 0xA0 ≤ o ∧ o ≤ 0xAC then .h (wordIndex 4 o 0xA0)
  else if 0xB0 ≤ o ∧ o ≤ 0xBC then .s (wordIndex 4 o 0xB0)
  else if 0xC0 ≤ o ∧ o ≤ 0xCC then .ctr (wordIndex 4 o 0xC0)
  else .reserved

/-- What a register reads as (R55). A write-only register and a reserved offset read 0 (R53, R58). -/
def readReg (st : State) : Reg → Word
  | .id => idWord
  | .cfg => cfgWord st.keyw
  | .cmd => 0
  | .status => st.statusWord
  | .errcmd => st.errcmd
  | .key _ => 0
  | .din j => be32 st.din j
  | .dout j => be32 st.dout j
  | .h _ => 0
  | .s j => be32 st.s j
  | .ctr j => be32 st.ctr j
  | .reserved => 0

/-- `BusRead(off)`: no read changes any state (R55). -/
def busRead (off : BitVec 8) (st : State) : Word := readReg st (regAt off)

/-- `Command(w)` (R181): the command the word decodes to; a word that is none is discarded while ERR = 1 and else
rejected with the decoder's error (R183, R184). -/
def command (w : Word) (st : State) : Host.Outcome State Fault Refusal :=
  match decode w with
  | .ok i => exec i st
  | .error c => runCommand w (some c) st st

/-- A write to a register other than CMD (R56): writes to read-only registers and reserved offsets are ignored (R53,
R58), and a write to STATUS clears the error record if bit 1 is set (R187). KEY, DIN, H, S and CTR are written whatever
ERR is. -/
def writeReg (st : State) (v : Word) : Reg → State
  | .id => st
  | .cfg => st
  | .cmd => st
  | .status => if v.getLsbD 1 then st.clearError else st
  | .errcmd => st
  | .key j => st.setKey (setBe32 st.key j v)
  | .din j => st.setDin (setBe32 st.din j v)
  | .dout _ => st
  | .h j => st.setH (setBe32 st.h j v)
  | .s j => st.setS (setBe32 st.s j v)
  | .ctr j => st.setCtr (setBe32 st.ctr j v)
  | .reserved => st

/-- `BusWrite(off, v)` (R56): a write to CMD performs a command, any other a register write. -/
def busWrite (off : BitVec 8) (v : Word) (st : State) : Host.Outcome State Fault Refusal :=
  if regAt off = .cmd then command v st else .next (writeReg st v (regAt off))

/-- The outcome with the block's response added to its next state (R50). -/
def respond (r : Response) : Host.Outcome State Fault Refusal → Host.Outcome State Fault Refusal
  | .next st => .next (st.setRsp (some r))
  | .fault e => .fault e
  | .refused e => .refused e

/-- A 32-bit request at an offset that is a multiple of 4 (R57). -/
def Request.aligned (r : Request) : Bool := r.size == 2 && r.addr.toNat % 4 == 0

/-- One accepted request, as one atomic step (R51, R61). A request of another size or alignment completes with an error
response, reads as 0 and changes no register (R57); a write's response carries 0 (R50). -/
def transaction (r : Request) (st : State) : Host.Outcome State Fault Refusal :=
  if r.aligned then
    if r.write then respond ⟨0, false⟩ (busWrite r.addr r.wdata st)
    else respond ⟨busRead r.addr st, false⟩ (.next st)
  else respond ⟨0, true⟩ (.next st)

/-- One event of the outside world. Reset overrides everything: a request in progress is abandoned without a response
(R191, R210). -/
def takeEvent (st : State) : HostEvent → Host.Outcome State Fault Refusal
  | .request r => transaction r st
  | .reset _ => .next st.applyReset

/-- The next event, taken; with none waiting the block holds its state and no response is present (R20, R199). -/
def takeNext (st : State) : Host.Outcome State Fault Refusal :=
  match st.pending with
  | [] => .next (st.setRsp none)
  | e :: es => takeEvent (st.setPending es) e

/-- The write of a command word to CMD (R80, R89). -/
def cmdWrite (w : Word) : HostEvent := .request ⟨true, 0x08, 2, w⟩

/-- The state in which the next event is the write of `w` to CMD, and the events that waited come after it. -/
def State.withCommand (st : State) (w : Word) : State := st.setPending (cmdWrite w :: st.pending)

end Sys2Proof.Machine
end

