-- ==== Sys2Proof/Machine/Step.lean ====
section
/-! DEFINITION. The step of the machine: the next event of the outside world, as one atomic transaction
(spec/20_memory.md rules R51, R61, R62). -/

namespace Sys2Proof.Machine

/-- One step: the next waiting event is taken; with none, the block waits. -/
def step (s : State) : Host.Outcome State Fault Refusal := takeNext s

/-- The state whose next step takes the write to CMD of the command word with the low `nbits` bits of `w`: a command
comes to the block only by that write (R21, R24, R80; assumption log 4). -/
def State.withFetchWord (s : State) (nbits w : Nat) : State := s.withCommand (tableWord nbits w)

end Sys2Proof.Machine
end

