-- ==== Sys2Proof/Machine/HostProgram.lean ====
section
/-! DEFINITION. The host's lines and pseudo-instructions as the events they stand for (spec/30_encoding.md rules R88 to
R90): what a host presents to the block, and nothing the block does. -/

namespace Sys2Proof.Machine

/-- The offset of word `j` of a register (R52, R89). -/
def Reg.offset : Reg → BitVec 8
  | .id => 0x00
  | .cfg => 0x04
  | .cmd => 0x08
  | .status => 0x0C
  | .errcmd => 0x10
  | .key j => BitVec.ofNat 8 (0x40 + 4 * j)
  | .din j => BitVec.ofNat 8 (0x80 + 4 * j)
  | .dout j => BitVec.ofNat 8 (0x90 + 4 * j)
  | .h j => BitVec.ofNat 8 (0xA0 + 4 * j)
  | .s j => BitVec.ofNat 8 (0xB0 + 4 * j)
  | .ctr j => BitVec.ofNat 8 (0xC0 + 4 * j)
  | .reserved => 0x14

/-- `WR <reg>, v` (R89). -/
def wr (r : Reg) (v : Word) : HostEvent := .request ⟨true, r.offset, 2, v⟩

/-- `RD <reg>` (R89). -/
def rd (r : Reg) : HostEvent := .request ⟨false, r.offset, 2, 0⟩

/-- A command mnemonic standing alone: `WR CMD, <word>` (R88). -/
def issue (i : Instr) : HostEvent := wr .cmd (encode i)

/-- `LD16 <REG>, b`, for REG one of DIN, H, S, CTR given by its four words (R90). -/
def ld16 (reg : Fin 4 → Reg) (b : Block) : List HostEvent :=
  [wr (reg 0) (be32 b 0), wr (reg 1) (be32 b 1), wr (reg 2) (be32 b 2), wr (reg 3) (be32 b 3)]

/-- `RD16 <REG>`, for REG one of DIN, DOUT, S, CTR given by its four words (R90). -/
def rd16 (reg : Fin 4 → Reg) : List HostEvent := [rd (reg 0), rd (reg 1), rd (reg 2), rd (reg 3)]

/-- `LDKEY`: the first `nk` words of the key (R90). -/
def ldKey (nk : Nat) (k : KeyString) : List HostEvent :=
  (List.range nk).map fun j => wr (.key (Fin.ofNat 16 j)) (be32 k j)

/-- `CLRERR` (R90). -/
def clrErr : List HostEvent := [wr .status 0x00000002]

/-- The 16-byte chunks of a byte string, in order, the last one possibly shorter; `n` bounds their number. -/
def chunks : Nat → List Byte → List (List Byte)
  | 0, _ => []
  | _ + 1, [] => []
  | n + 1, b :: bs => (b :: bs).take 16 :: chunks n ((b :: bs).drop 16)

/-- The bytes of a chunk followed by zeros, as a block. -/
def chunkBlock (p : List Byte) : Block := blockOfBytes fun k => p.getD k 0

/-- `GHASHBUF D`: for each chunk `P` of `m` bytes, `LD16 DIN, P ‖ 0` and `GHASH m` (R90). -/
def ghashBuf (d : List Byte) : List HostEvent :=
  (chunks d.length d).flatMap fun p => ld16 .din (chunkBlock p) ++ [issue (.ghash (BitVec.ofNat 5 p.length))]

/-- `CTRBUF D`: for each chunk `P` of `m` bytes, `LD16 DIN, P ‖ 0`, `CTRX m` and `RD16 DOUT` (R90). -/
def ctrBuf (d : List Byte) : List HostEvent :=
  (chunks d.length d).flatMap fun p =>
    ld16 .din (chunkBlock p) ++ [issue (.ctrx (BitVec.ofNat 5 p.length))] ++ rd16 .dout

end Sys2Proof.Machine
end

