-- ==== Sys2Proof/Safety.lean ====
section
/-! DEFINITION. The terms in which claims about the machine are made: which commands are legal, what the next event is,
what may be seen, and the invariants of the state (spec/10_state.md rules R26, R30, R32; spec/60_exceptions.md rules R180,
R183). No meaning and no step reads anything of this file. -/

namespace Sys2Proof

/-- Whether a KEYEXP's KSZ is the build's (R82, R87). -/
def kszMatches (w : KeyWidth) : Instr → Bool
  | .keyexp ksz => ksz == w.ksz
  | .zeroize => true
  | .encb => true
  | .hgen => true
  | .gmul => true
  | .ghinit => true
  | .ghash _ => true
  | .ctrx _ => true
  | .ctrinc => true

/-- A legal command of the build of width `w` (R87). -/
def legalFor (w : KeyWidth) (i : Instr) : Bool := wellFormed i && kszMatches w i

/-- Whether the command reads the expanded schedule, and so is rejected with NOKEY without one (R180, R183). -/
def needsKey : Instr → Bool
  | .keyexp _ => false
  | .zeroize => false
  | .encb => true
  | .hgen => true
  | .gmul => false
  | .ghinit => false
  | .ghash _ => false
  | .ctrx _ => true
  | .ctrinc => false

namespace Machine

/-! ## R183, read on the raw word -/

/-- The checks of R183 in their order on a word `w`, by the numbers of its fields: the first that fails, or none. A
transcription of the rule's pseudocode that uses neither the decoder nor a command's meaning. -/
def firstFailingCheck (kw : KeyWidth) (kvalid : Bool) (w : Word) : Option CmdError :=
  let op := w.toNat % 2 ^ 8
  let len := w.toNat / 2 ^ 8 % 2 ^ 5
  if op ∉ [0x01, 0x02, 0x10, 0x11, 0x20, 0x30, 0x31, 0x40, 0x41] then some .illegalOp
  else if (op ∈ [0x02, 0x10, 0x11, 0x20, 0x30, 0x41] ∧ w.toNat / 2 ^ 8 ≠ 0) ∨ (op = 0x01 ∧ w.toNat / 2 ^ 10 ≠ 0)
      ∨ (op ∈ [0x31, 0x40] ∧ w.toNat / 2 ^ 13 ≠ 0) then some .rsvdBits
  else if op ∈ [0x31, 0x40] ∧ (len = 0 ∨ 16 < len) then some .badLen
  else if op = 0x01 ∧ w.toNat / 2 ^ 8 % 2 ^ 2 ≠ kw.ksz.toNat then some .keySize
  else if op ∈ [0x10, 0x11, 0x40] ∧ kvalid = false then some .noKey
  else none

/-! ## What the next event is -/

/-- The next event is the write to CMD of the command `i`'s word. -/
def State.nextIsCommand (st : State) (i : Instr) : Prop := ∃ es, st.pending = issue i :: es

/-- The next event is an aligned write to the register `r`. -/
def State.nextIsWrite (st : State) (r : Reg) : Prop := ∃ v es, st.pending = wr r v :: es

/-- The next event is reset. -/
def State.nextIsReset (st : State) : Prop := ∃ r es, st.pending = .reset r :: es

/-- The next event is an aligned write to STATUS with bit 1 set: ClearError (R187). -/
def State.nextIsClearError (st : State) : Prop := ∃ v es, v.getLsbD 1 = true ∧ st.pending = wr .status v :: es

/-! ## Runs -/

/-- The commands performed one after another. -/
def execAll : List Instr → State → Host.Outcome State Fault Refusal
  | [], st => .next st
  | i :: is, st =>
    match exec i st with
    | .next t => execAll is t
    | .fault e => .fault e
    | .refused e => .refused e

/-- The source's GHASH of a buffer `D` into the accumulator `s` under `h`: every 16-byte chunk in order, the last one
padded with zeros (R163). -/
def ghashBuffer (h s : Block) (d : List Byte) : Block :=
  (chunks d.length d).foldl (fun a p => absorb h a (chunkBlock p)) s

/-! ## What a host may see -/

/-- Two states that are the same but for RK. -/
def sameButRk (a b : State) : Prop := ∃ rk, b = { a with rk := rk }

/-- Two states that are the same but for KEY, RK and H, which no read returns (R28, R31, R35). -/
def sameButSecrets (a b : State) : Prop := ∃ key rk h, b = { a with key := key, rk := rk, h := h }

/-! ## Invariants -/

/-- The command word and code that the record holds fit: no command raises a code that R180 does not list for it, and
each code is raised only by its cause. -/
def explains (kw : KeyWidth) (c : BitVec 3) (w : Word) : Prop :=
  (c = 1 ∧ decode w = .error .illegalOp) ∨
  (c = 2 ∧ decode w = .error .rsvdBits) ∨
  (c = 3 ∧ ∃ len, legalLen len = false ∧ (decode w = .ok (.ghash len) ∨ decode w = .ok (.ctrx len))) ∨
  (c = 4 ∧ ∃ ksz, ksz ≠ kw.ksz ∧ decode w = .ok (.keyexp ksz)) ∨
  (c = 5 ∧ ∃ i, needsKey i = true ∧ wellFormed i = true ∧ decode w = .ok i)

/-- The error record: empty while ERR = 0; while ERR = 1 it holds a code of 1 to 5 and the word that caused it (R26,
R27, R180). -/
def State.errRecordSound (st : State) : Prop :=
  (st.err = false → st.errcode = 0 ∧ st.errcmd = 0) ∧ (st.err = true → explains st.keyw st.errcode st.errcmd)

/-- RK holds a schedule expanded by KEYEXP while KVALID = 1, and zeros while KVALID = 0; either way `Nr + 1` round keys
(R25, R30, R32). -/
def State.scheduleSound (st : State) : Prop :=
  st.rk.length = st.keyw.roundKeys ∧
  (st.kvalid = true → ∃ k, st.rk = keyExpand st.keyw k) ∧
  (st.kvalid = false → st.rk = List.replicate st.keyw.roundKeys 0)

/-- What holds of every state that a run from reset reaches. -/
def State.Inv (st : State) : Prop := st.errRecordSound ∧ st.scheduleSound

end Machine

end Sys2Proof
end

