-- ==== Sys2Proof/Certificates/Slice0/Obligations.lean ====
section
/-! DEFINITION. The statements about the model, each with the rule of spec/ it formalises or rests on. -/

open Sys2Proof Sys2Proof.Machine

/-! ## Encoding -/

/-- Every command, with every value of its operand, is read back from its word (R81, R85, R88). -/
def Obligations.DecodeOfEncodeIsTheCommand : Prop := ∀ i : Instr, decode (encode i) = .ok i

/-- No word but a command's own decodes to it, so no bit of a word is dropped (R81, R86). -/
def Obligations.EncodeOfDecodeIsTheWord : Prop := ∀ (w : Word) (i : Instr), decode w = .ok i → encode i = w

/-- R85: a word selects a row exactly when its bits under the row's Mask are the row's Match, with the operand in its
field whatever the value. -/
def Obligations.WordSelectsRowByMaskAndMatch : Prop := ∀ w : Word,
  (∀ ksz, decode w = .ok (.keyexp ksz) ↔ w &&& 0xFFFFFCFF = 0x00000001 ∧ ksz = w.extractLsb' 8 2) ∧
  (decode w = .ok .zeroize ↔ w &&& 0xFFFFFFFF = 0x00000002) ∧
  (decode w = .ok .encb ↔ w &&& 0xFFFFFFFF = 0x00000010) ∧
  (decode w = .ok .hgen ↔ w &&& 0xFFFFFFFF = 0x00000011) ∧
  (decode w = .ok .gmul ↔ w &&& 0xFFFFFFFF = 0x00000020) ∧
  (decode w = .ok .ghinit ↔ w &&& 0xFFFFFFFF = 0x00000030) ∧
  (∀ len, decode w = .ok (.ghash len) ↔ w &&& 0xFFFFE0FF = 0x00000031 ∧ len = w.extractLsb' 8 5) ∧
  (∀ len, decode w = .ok (.ctrx len) ↔ w &&& 0xFFFFE0FF = 0x00000040 ∧ len = w.extractLsb' 8 5) ∧
  (decode w = .ok .ctrinc ↔ w &&& 0xFFFFFFFF = 0x00000041)

/-- R86: every OP outside the nine, the all-zero word's among them, is rejected with ILLEGAL_OP, and an assigned OP with
a bit set outside OP and the format's field with RSVD_BITS; no such word is a command. -/
def Obligations.UnassignedAndReservedWordsAreIllegal : Prop :=
  (∀ w : Word, decode w = .error .illegalOp ↔
    w &&& 0xFF ∉ ([0x01, 0x02, 0x10, 0x11, 0x20, 0x30, 0x31, 0x40, 0x41] : List Word)) ∧
  (∀ w : Word, decode w = .error .rsvdBits ↔
    (w &&& 0xFF = 0x01 ∧ w &&& 0xFFFFFC00 ≠ 0) ∨
    (w &&& 0xFF ∈ ([0x02, 0x10, 0x11, 0x20, 0x30, 0x41] : List Word) ∧ w &&& 0xFFFFFF00 ≠ 0) ∨
    (w &&& 0xFF ∈ ([0x31, 0x40] : List Word) ∧ w &&& 0xFFFFE000 ≠ 0)) ∧
  decode 0x00000000 = .error .illegalOp ∧
  (∀ (w : Word) (s : State), s.err = false →
    (decode w = .error .illegalOp → command w s = .next { s with err := true, errcode := 1, errcmd := w }) ∧
    (decode w = .error .rsvdBits → command w s = .next { s with err := true, errcode := 2, errcmd := w }))

/-- The legal command words of a build, counted: one KEYEXP word, six words of format N, sixteen GHASH words and sixteen
CTRX words, 39 in all. These are the words R87 lists; the total it prints, 43, is not their number (assumption log 12). -/
def Obligations.EachBuildHasThirtyNineLegalWords : Prop := ∀ kw : KeyWidth, ∃ ws : List Word,
  ws.Nodup ∧ ws.length = 39 ∧ ∀ w, w ∈ ws ↔ ∃ i, decode w = .ok i ∧ legalFor kw i = true

/-- A few words of R88's table read as the commands they stand for. -/
def Obligations.SpecWordsDecodeAsTabled : Prop :=
  decode 0x00000301 = .ok (.keyexp 3) ∧ decode 0x00000002 = .ok .zeroize ∧ decode 0x00000010 = .ok .encb ∧
  decode 0x00000011 = .ok .hgen ∧ decode 0x00000020 = .ok .gmul ∧ decode 0x00000030 = .ok .ghinit ∧
  decode 0x00000431 = .ok (.ghash 4) ∧ decode 0x00000C40 = .ok (.ctrx 12) ∧ decode 0x00000041 = .ok .ctrinc

/-! ## The step -/

/-- A step takes the next event on the state without it, a request as one transaction (R51); where that is the write of
a word to CMD, it runs the command the word decodes to and answers the write; `withFetchWord` puts such an event first.
The queue of events is the model's (assumption log 2). -/
def Obligations.StepRunsTheDecodedCommand : Prop :=
  (∀ (s : State) (e : HostEvent) (es : List HostEvent), s.pending = e :: es →
    step s = takeEvent { s with pending := es } e) ∧
  (∀ (s : State) (r : Request), takeEvent s (.request r) = transaction r s) ∧
  (∀ (s : State) (w : Word) (i : Instr) (es : List HostEvent), s.pending = cmdWrite w :: es → decode w = .ok i →
    step s = respond ⟨0, false⟩ (exec i { s with pending := es })) ∧
  (∀ (s : State) (nbits w : Nat) (i : Instr), decodeTableWord nbits w = some i →
    step (s.withFetchWord nbits w) = respond ⟨0, false⟩ (exec i s))

/-- A word that is no command is, with ERR = 0, recorded with the decoder's error and changes nothing else, and while
ERR = 1 discarded: it is never performed as a command (R86, R182, R184). -/
def Obligations.IllegalWordIsRecordedOrDiscarded : Prop :=
  ∀ (s : State) (w : Word) (c : CmdError) (es : List HostEvent), s.pending = cmdWrite w :: es → decode w = .error c →
    (s.err = false → step s = .next { s with
      pending := es, rsp := some ⟨0, false⟩, err := true, errcode := c.code, errcmd := w }) ∧
    (s.err = true → step s = .next { s with pending := es, rsp := some ⟨0, false⟩ })

/-- With no event waiting, the block holds its state: the model's reading of "between commands it holds its state
indefinitely" (R199), with no response present (assumption log 3). -/
def Obligations.IdleBlockHoldsItsState : Prop :=
  ∀ s : State, s.pending = [] → step s = .next { s with rsp := none }

/-- Every step of every state answers a next state. That every command completes, rejected or performed, is the spec's
(R182, R223); that no step ends in the outcome fault or refused is the model's choice: a bus error is a next state where
D3 says fault outcome (assumption log 5), a step with no event waiting is idle (log 3), and no rule raises an internal
inconsistency (log 15). -/
def Obligations.EveryStepAnswersANextState : Prop := ∀ s : State, ∃ t, step s = .next t

/-! ## The nine commands: what each does, and what it leaves -/

/-- R110: KEYEXP writes RK and KVALID only, from the first `4·Nk` bytes of KEY; a KSZ that is not the build's is
KEYSIZE. -/
def Obligations.KeyexpExpandsTheKey : Prop :=
  (∀ ksz, encode (.keyexp ksz) = 0x00000001 ||| (ksz.setWidth 32 <<< 8)) ∧
  (∀ (w : KeyWidth) (k k' : KeyString), (∀ j < w.nk, be32 k j = be32 k' j) → keyExpand w k = keyExpand w k') ∧
  ∀ (s : State) (ksz : BitVec 2), s.err = false →
    (ksz = s.keyw.ksz → exec (.keyexp ksz) s = .next { s with rk := keyExpand s.keyw s.key, kvalid := true }) ∧
    (ksz ≠ s.keyw.ksz → exec (.keyexp ksz) s = .next { s with
      err := true, errcode := 4, errcmd := 0x00000001 ||| (ksz.setWidth 32 <<< 8) })

/-- R112, R185: ZEROIZE clears KEY, RK, KVALID, DIN, DOUT, H, S and CTR, whatever ERR is, and keeps the error record; a
word with its opcode and a reserved bit set is not ZEROIZE. -/
def Obligations.ZeroizeErasesAllButTheErrorRecord : Prop :=
  encode .zeroize = 0x00000002 ∧
  (∀ s : State, exec .zeroize s = .next { s with
    key := 0, rk := List.replicate (s.keyw.nr + 1) 0, kvalid := false, din := 0, dout := 0, h := 0, s := 0, ctr := 0 }) ∧
  (∀ (s : State) (w : Word), w &&& 0xFF = 0x02 → w ≠ 0x00000002 →
    (s.err = false → command w s = .next { s with err := true, errcode := 2, errcmd := w }) ∧
    (s.err = true → command w s = .next s))

/-- R140: ENCB writes `Cipher(DIN, RK)` to DOUT and nothing else; without a schedule it is NOKEY. -/
def Obligations.EncbEncryptsDinIntoDout : Prop :=
  encode .encb = 0x00000010 ∧
  ∀ s : State, s.err = false →
    (s.kvalid = true → exec .encb s = .next { s with dout := cipher s.keyw.nr s.rk s.din }) ∧
    (s.kvalid = false → exec .encb s = .next { s with err := true, errcode := 5, errcmd := 0x00000010 })

/-- R141: HGEN writes `Cipher(0^128, RK)` to H and nothing else; without a schedule it is NOKEY. -/
def Obligations.HgenEncryptsZeroIntoH : Prop :=
  encode .hgen = 0x00000011 ∧
  ∀ s : State, s.err = false →
    (s.kvalid = true → exec .hgen s = .next { s with h := cipher s.keyw.nr s.rk 0 }) ∧
    (s.kvalid = false → exec .hgen s = .next { s with err := true, errcode := 5, errcmd := 0x00000011 })

/-- R155: GMUL writes `gmul(DIN, H)` to DOUT and nothing else, with a schedule or without; a zero operand gives zeros,
and H = 80 00..00 gives DIN. -/
def Obligations.GmulMultipliesDinByH : Prop :=
  encode .gmul = 0x00000020 ∧
  (∀ s : State, s.err = false → exec .gmul s = .next { s with dout := gmul s.din s.h }) ∧
  (∀ x : Block, gmul 0 x = 0 ∧ gmul x 0 = 0 ∧ gmul x 0x80000000000000000000000000000000 = x)

/-- R160: GHINIT clears S and nothing else; host writes of zeros to S0 to S3 have the same effect. -/
def Obligations.GhinitClearsS : Prop :=
  encode .ghinit = 0x00000030 ∧ ∀ s : State, s.err = false →
    exec .ghinit s = .next { s with s := 0 } ∧
    ∃ a b c, busWrite 0xB0 0 s = .next a ∧ busWrite 0xB4 0 a = .next b ∧ busWrite 0xB8 0 b = .next c ∧
      busWrite 0xBC 0 c = exec .ghinit s

/-- R161, R162: GHASH absorbs the block made of the first LEN bytes of DIN and zeros, with a schedule or without, and
writes S only (zeros when H is zero); LEN = 0 or LEN > 16 is BAD_LEN. -/
def Obligations.GhashAbsorbsThePaddedPrefix : Prop :=
  (∀ len, encode (.ghash len) = 0x00000031 ||| (len.setWidth 32 <<< 8)) ∧ (∀ x : Block, gmul x 0 = 0) ∧
  ∀ (s : State) (len : BitVec 5), s.err = false →
    (1 ≤ len.toNat → len.toNat ≤ 16 → ∃ b : Block,
      (∀ k < 16, byteAt b k = if k < len.toNat then byteAt s.din k else 0) ∧
      exec (.ghash len) s = .next { s with s := gmul (s.s ^^^ b) s.h }) ∧
    ((len.toNat = 0 ∨ 16 < len.toNat) → exec (.ghash len) s = .next { s with
      err := true, errcode := 3, errcmd := 0x00000031 ||| (len.setWidth 32 <<< 8) })

/-- R172: CTRX XORs the first LEN bytes of DIN with the keystream block, makes the other bytes of DOUT zero, advances
CTR and changes nothing else; BAD_LEN comes before NOKEY. -/
def Obligations.CtrxXorsKeystreamAndAdvances : Prop :=
  (∀ len, encode (.ctrx len) = 0x00000040 ||| (len.setWidth 32 <<< 8)) ∧
  ∀ (s : State) (len : BitVec 5), s.err = false →
    (1 ≤ len.toNat → len.toNat ≤ 16 → s.kvalid = true → ∃ d : Block,
      (∀ k < 16, byteAt d k =
        if k < len.toNat then byteAt s.din k ^^^ byteAt (cipher s.keyw.nr s.rk s.ctr) k else 0) ∧
      exec (.ctrx len) s = .next { s with dout := d, ctr := inc32 s.ctr }) ∧
    ((len.toNat = 0 ∨ 16 < len.toNat) → exec (.ctrx len) s = .next { s with
      err := true, errcode := 3, errcmd := 0x00000040 ||| (len.setWidth 32 <<< 8) }) ∧
    (1 ≤ len.toNat → len.toNat ≤ 16 → s.kvalid = false → exec (.ctrx len) s = .next { s with
      err := true, errcode := 5, errcmd := 0x00000040 ||| (len.setWidth 32 <<< 8) })

/-- R173: CTRINC advances CTR and changes nothing else, with a schedule or without. -/
def Obligations.CtrincAdvancesTheCounter : Prop :=
  encode .ctrinc = 0x00000041 ∧
  ∀ s : State, s.err = false → exec .ctrinc s = .next { s with ctr := inc32 s.ctr }

/-! ## Errors and fail-stop -/

/-- R182: a rejected command is a command that did not happen, plus the error record with its own word. -/
def Obligations.RejectionOnlyRecordsTheError : Prop :=
  ∀ (w : Word) (s t : State), s.err = false → command w s = .next t → t.err = true →
    ∃ c : CmdError, t = { s with err := true, errcode := c.code, errcmd := w }

/-- With ERR = 0 a command word is rejected by the first failing check of R183's pseudocode, and by that one alone, and
is performed if none fails; the codes are R180's. R183's example 0x00002040 reports BAD_LEN, where its pseudocode, R81 and
the spec's test vectors have a set bit 13 report RSVD_BITS: the model's reading is the latter (assumption log 17). -/
def Obligations.ChecksFailInTheSpecsOrder : Prop :=
  (CmdError.illegalOp.code = 1 ∧ CmdError.rsvdBits.code = 2 ∧ CmdError.badLen.code = 3 ∧ CmdError.keySize.code = 4 ∧
    CmdError.noKey.code = 5) ∧
  ∀ (w : Word) (s : State), s.err = false →
    (∀ c, firstFailingCheck s.keyw s.kvalid w = some c →
      command w s = .next { s with err := true, errcode := c.code, errcmd := w }) ∧
    (firstFailingCheck s.keyw s.kvalid w = none → ∃ i t, decode w = .ok i ∧ command w s = exec i s ∧
      exec i s = .next t ∧ t.err = false)

/-- R184: while ERR = 1 every command word but 0x00000002 is discarded, register writes are still performed, the first
error is kept, and only ClearError and reset lead out. -/
def Obligations.FailStopDiscardsUntilCleared : Prop :=
  (∀ (s : State) (w : Word), s.err = true → w ≠ 0x00000002 → command w s = .next s) ∧
  (∀ (s : State) (off : BitVec 8), s.err = true →
    (∀ v, off ≠ 0x08 → busWrite off v s = .next (writeReg s v (regAt off))) ∧
    (∀ v, off.toNat % 4 = 0 →
      transaction ⟨false, off, 2, v⟩ s = .next { s with rsp := some ⟨busRead off s, false⟩ })) ∧
  (∀ s t : State, s.err = true → step s = .next t →
    (t.err = false → s.nextIsClearError ∨ s.nextIsReset) ∧
    (t.err = true → t.errcode = s.errcode ∧ t.errcmd = s.errcmd))

/-- R187: a write to STATUS with bit 1 set clears ERR, ERRCODE and ERRCMD and nothing else, so that with ERR = 0 (and
the record empty, as the invariant says it then is) it changes nothing; with bit 1 clear it changes nothing (R25). -/
def Obligations.ClearErrorClearsTheRecordAlone : Prop :=
  ∀ (s : State) (v : Word),
    (v.getLsbD 1 = true → busWrite 0x0C v s = .next { s with err := false, errcode := 0, errcmd := 0 }) ∧
    (v.getLsbD 1 = true → s.errRecordSound → s.err = false → busWrite 0x0C v s = .next s) ∧
    (v.getLsbD 1 = false → busWrite 0x0C v s = .next s)

/-! ## Invariants and reset -/

/-- Every step keeps the invariants: the error record is empty while ERR = 0 and else holds a word and the code whose
cause it is; RK holds `Nr + 1` round keys, an expanded schedule while KVALID = 1 and zeros else. -/
def Obligations.StepKeepsErrorRecordAndSchedule : Prop :=
  ∀ s t : State, s.Inv → step s = .next t → t.Inv

/-- Reset has the invariants, on every build. -/
def Obligations.ResetHasTheInvariants : Prop := ∀ w : KeyWidth, (State.resetOf w).Inv

/-- No step changes the build: CFG reads the same for ever, and ID too (R22, R23). -/
def Obligations.IdAndCfgAreConstant : Prop :=
  (∀ s t : State, step s = .next t → t.keyw = s.keyw ∧ busRead 0x04 t = busRead 0x04 s) ∧
  (∀ s : State, busRead 0x00 s = 0x41454701 ∧
    (s.keyw = .k128 → busRead 0x04 s = 0x000A0400) ∧ (s.keyw = .k192 → busRead 0x04 s = 0x000C0601) ∧
    (s.keyw = .k256 → busRead 0x04 s = 0x000E0802) ∧ (s.keyw = .k512 → busRead 0x04 s = 0x00161003))

/-- R210: reset, from whatever state and with whatever request in progress, leaves every register at its reset value and
gives no response; ID and CFG read as before. -/
def Obligations.ResetSetsEveryRegister : Prop :=
  ∀ (s : State) (r : Option Request), ∃ t, takeEvent s (.reset r) = .next t ∧
    t.key = 0 ∧ t.rk = List.replicate (s.keyw.nr + 1) 0 ∧ t.din = 0 ∧ t.dout = 0 ∧ t.h = 0 ∧ t.s = 0 ∧ t.ctr = 0 ∧
    t.kvalid = false ∧ t.err = false ∧ t.errcode = 0 ∧ t.errcmd = 0 ∧ t.rsp = none ∧
    busRead 0x00 t = 0x41454701 ∧ busRead 0x04 t = busRead 0x04 s

/-! ## Who writes what -/

/-- R32: KVALID and RK change only by a KEYEXP that is performed, by ZEROIZE and by reset. -/
def Obligations.ScheduleChangesOnlyByKeyexpZeroizeReset : Prop :=
  ∀ s t : State, step s = .next t → (t.kvalid = s.kvalid ∧ t.rk = s.rk) ∨
    (s.err = false ∧ s.nextIsCommand (.keyexp s.keyw.ksz) ∧ t.kvalid = true ∧ t.rk = keyExpand s.keyw s.key) ∨
    ((s.nextIsCommand .zeroize ∨ s.nextIsReset) ∧ t.kvalid = false ∧ t.rk = List.replicate (s.keyw.nr + 1) 0)

/-- R29: KEY changes only by host writes to its words, by ZEROIZE and by reset, and a write to it changes neither RK nor
KVALID. -/
def Obligations.KeyChangesOnlyByHostZeroizeReset : Prop :=
  (∀ s t : State, step s = .next t → t.key = s.key ∨
    (∃ j, s.nextIsWrite (.key j)) ∨ s.nextIsCommand .zeroize ∨ s.nextIsReset) ∧
  (∀ (s t : State) (j : Fin 16), s.nextIsWrite (.key j) → step s = .next t → t.rk = s.rk ∧ t.kvalid = s.kvalid)

/-- Each data register changes only by the writers that its rule names (R33 to R37). -/
def Obligations.DataRegistersHaveOnlyTheirWriters : Prop := ∀ s t : State, step s = .next t →
  (t.din = s.din ∨ (∃ j, s.nextIsWrite (.din j)) ∨ s.nextIsCommand .zeroize ∨ s.nextIsReset) ∧
  (t.dout = s.dout ∨ s.nextIsCommand .encb ∨ s.nextIsCommand .gmul ∨ (∃ len, s.nextIsCommand (.ctrx len)) ∨
    s.nextIsCommand .zeroize ∨ s.nextIsReset) ∧
  (t.h = s.h ∨ s.nextIsCommand .hgen ∨ (∃ j, s.nextIsWrite (.h j)) ∨ s.nextIsCommand .zeroize ∨ s.nextIsReset) ∧
  (t.s = s.s ∨ s.nextIsCommand .ghinit ∨ (∃ len, s.nextIsCommand (.ghash len)) ∨ (∃ j, s.nextIsWrite (.s j)) ∨
    s.nextIsCommand .zeroize ∨ s.nextIsReset) ∧
  (t.ctr = s.ctr ∨ (∃ len, s.nextIsCommand (.ctrx len)) ∨ s.nextIsCommand .ctrinc ∨ (∃ j, s.nextIsWrite (.ctr j)) ∨
    s.nextIsCommand .zeroize ∨ s.nextIsReset)

/-! ## The register window -/

/-- R55: what each offset reads as, and that no read changes any state: an aligned 32-bit read is answered with the word
read and leaves every register. -/
def Obligations.BusReadFollowsTheTable : Prop :=
  (∀ s : State, busRead 0x00 s = 0x41454701 ∧ busRead 0x04 s = cfgWord s.keyw ∧ busRead 0x08 s = 0 ∧
    (busRead 0x0C s).toNat = s.errcode.toNat * 16 + s.err.toNat * 2 + s.kvalid.toNat ∧ busRead 0x10 s = s.errcmd ∧
    (∀ j < 16, busRead (BitVec.ofNat 8 (0x40 + 4 * j)) s = 0) ∧
    (∀ j < 4, busRead (BitVec.ofNat 8 (0x80 + 4 * j)) s = be32 s.din j ∧
      busRead (BitVec.ofNat 8 (0x90 + 4 * j)) s = be32 s.dout j ∧
      busRead (BitVec.ofNat 8 (0xA0 + 4 * j)) s = 0 ∧
      busRead (BitVec.ofNat 8 (0xB0 + 4 * j)) s = be32 s.s j ∧
      busRead (BitVec.ofNat 8 (0xC0 + 4 * j)) s = be32 s.ctr j) ∧
    (∀ off : BitVec 8, (0x14 ≤ off.toNat ∧ off.toNat ≤ 0x3C ∨ 0xD0 ≤ off.toNat ∧ off.toNat ≤ 0xFC) →
      busRead off s = 0)) ∧
  (∀ (s : State) (off : BitVec 8) (v : Word), off.toNat % 4 = 0 →
    transaction ⟨false, off, 2, v⟩ s = .next { s with rsp := some ⟨busRead off s, false⟩ })

/-- R56: what a write at each offset does, whatever ERR is; every other offset's write has no effect. An aligned 32-bit
write request is that write and nothing else, answered with data 0 and no error (R50, R51), KEY, STATUS, read-only and
reserved offsets included; the field that holds the response is the model's (assumption log 3). -/
def Obligations.BusWriteFollowsTheTable : Prop := ∀ (s : State) (v : Word),
  (∀ off : BitVec 8, off.toNat % 4 = 0 → transaction ⟨true, off, 2, v⟩ s = respond ⟨0, false⟩ (busWrite off v s)) ∧
  (∀ (a : Response) (t : State), respond a (.next t) = .next { t with rsp := some a }) ∧
  busWrite 0x08 v s = command v s ∧
  busWrite 0x0C v s = .next (if v.getLsbD 1 then { s with err := false, errcode := 0, errcmd := 0 } else s) ∧
  (∀ j < 16, busWrite (BitVec.ofNat 8 (0x40 + 4 * j)) v s = .next { s with key := setBe32 s.key j v }) ∧
  (∀ j < 4, busWrite (BitVec.ofNat 8 (0x80 + 4 * j)) v s = .next { s with din := setBe32 s.din j v } ∧
    busWrite (BitVec.ofNat 8 (0x90 + 4 * j)) v s = .next s ∧
    busWrite (BitVec.ofNat 8 (0xA0 + 4 * j)) v s = .next { s with h := setBe32 s.h j v } ∧
    busWrite (BitVec.ofNat 8 (0xB0 + 4 * j)) v s = .next { s with s := setBe32 s.s j v } ∧
    busWrite (BitVec.ofNat 8 (0xC0 + 4 * j)) v s = .next { s with ctr := setBe32 s.ctr j v }) ∧
  (∀ off : BitVec 8, (off = 0x00 ∨ off = 0x04 ∨ off = 0x10 ∨ 0x14 ≤ off.toNat ∧ off.toNat ≤ 0x3C ∨
    0xD0 ≤ off.toNat ∧ off.toNat ≤ 0xFC) → busWrite off v s = .next s) ∧
  (∀ (b : Block), ∀ j < 4, ∀ k < 16, byteAt (setBe32 b j v) k = if k / 4 = j then byteAt v (k % 4) else byteAt b k) ∧
  (∀ (b : KeyString), ∀ j < 16, ∀ k < 64,
    byteAt (setBe32 b j v) k = if k / 4 = j then byteAt v (k % 4) else byteAt b k)

/-- After a register write, every aligned offset reads as before, but the offset written, when it is a word of DIN, S or
CTR, reads as the value written (R55, R56, R62). -/
def Obligations.ReadSeesTheLastWrite : Prop :=
  ∀ (s t : State) (off off' : BitVec 8) (v : Word), off.toNat % 4 = 0 → off'.toNat % 4 = 0 → off ≠ 0x08 → off ≠ 0x0C →
    busWrite off v s = .next t →
    busRead off' t =
      if off' = off ∧ (0x80 ≤ off.toNat ∧ off.toNat ≤ 0x8C ∨ 0xB0 ≤ off.toNat ∧ off.toNat ≤ 0xCC) then v
      else busRead off' s

/-- A request of another size or at an offset that is no multiple of 4 is answered with an error and 0, and changes no
register; a narrow or misaligned write to CMD performs no command and sets no ERR (R57). That a bus error is a next state
with an error response, where D3 says fault outcome, is the model's choice (assumption log 5). -/
def Obligations.BusErrorChangesNothing : Prop :=
  ∀ (s : State) (r : Request), (r.size ≠ 2 ∨ r.addr.toNat % 4 ≠ 0) →
    transaction r s = .next { s with rsp := some ⟨0, true⟩ }

/-- R31: no bus transaction but a command reads or writes RK, and a host observes it only through ENCB, HGEN and CTRX:
two states that differ in RK alone step, on any other event, to states that again differ in RK alone. -/
def Obligations.RkShowsOnlyThroughEncbHgenCtrx : Prop :=
  (∀ a b t : State, sameButRk a b → ¬ a.nextIsCommand .encb → ¬ a.nextIsCommand .hgen →
    (∀ len, ¬ a.nextIsCommand (.ctrx len)) → step a = .next t → ∃ u, step b = .next u ∧ sameButRk t u) ∧
  (∀ (s t : State) (r : Request) (es : List HostEvent), s.pending = .request r :: es → (∀ w, .request r ≠ cmdWrite w) →
    step s = .next t → t.rk = s.rk)

/-- KEY, RK and H leave the block only through the results of ENCB, GMUL, GHASH and CTRX: on every other event, the
response and every readable register are the same whatever KEY, RK and H hold (R28, R31, R35, R67). -/
def Obligations.SecretsLeaveOnlyThroughCipherAndHashResults : Prop :=
  ∀ a b t : State, sameButSecrets a b → ¬ a.nextIsCommand .encb → ¬ a.nextIsCommand .gmul →
    (∀ len, ¬ a.nextIsCommand (.ghash len)) → (∀ len, ¬ a.nextIsCommand (.ctrx len)) → step a = .next t →
    ∃ u, step b = .next u ∧ sameButSecrets t u

/-! ## The key schedule -/

/-- R105, with R103 and R104: the words of the schedule, each from the words before it, and the round keys made of
them. -/
def Obligations.KeyScheduleFollowsTheRecurrence : Prop :=
  (∀ a0 a1 a2 a3 : Byte, rotWord (wordOfBytes a0 a1 a2 a3) = wordOfBytes a1 a2 a3 a0 ∧
    subWord (wordOfBytes a0 a1 a2 a3) = wordOfBytes (sbox a0) (sbox a1) (sbox a2) (sbox a3)) ∧
  ∀ (w : KeyWidth) (key : KeyString),
    (scheduleWords w key).length = 4 * (w.nr + 1) ∧
    (∀ i < w.nk, (scheduleWords w key).getD i 0 = be32 key i) ∧
    (∀ i, w.nk ≤ i → i < 4 * (w.nr + 1) → (scheduleWords w key).getD i 0 =
      (scheduleWords w key).getD (i - w.nk) 0 ^^^
        (if i % w.nk = 0 then
          subWord (rotWord ((scheduleWords w key).getD (i - 1) 0)) ^^^ wordOfBytes (rcon (i / w.nk)) 0 0 0
        else if 6 < w.nk ∧ i % w.nk = 4 then subWord ((scheduleWords w key).getD (i - 1) 0)
        else (scheduleWords w key).getD (i - 1) 0)) ∧
    (keyExpand w key).length = w.nr + 1 ∧
    (∀ r ≤ w.nr, ∀ c < 4, be32 ((keyExpand w key).getD r 0) c = (scheduleWords w key).getD (4 * r + c) 0)

/-- R101: the round constants, by the recurrence, and the values it gives. -/
def Obligations.RconFollowsTheRecurrence : Prop :=
  rcon 0 = 0x8d ∧ (∀ j, 1 ≤ j → rcon j = xtime (rcon (j - 1))) ∧
  (List.range 16).map (fun j => rcon (j + 1)) =
    [0x01, 0x02, 0x04, 0x08, 0x10, 0x20, 0x40, 0x80, 0x1b, 0x36, 0x6c, 0xd8, 0xab, 0x4d, 0x9a, 0x2f]

/-- The bytes `KEY[4·Nk .. 64)` are storage that no command reads (R28): commands on two states whose KEY differ only
there differ only in KEY. -/
def Obligations.KeyBytesPastTheWidthAreNeverRead : Prop :=
  ∀ (s t : State) (i : Instr) (k : KeyString), (∀ j < s.keyw.nk, be32 k j = be32 s.key j) → exec i s = .next t →
    ∃ k', exec i { s with key := k } = .next { t with key := k' }

/-! ## The block cipher -/

/-- R125 to R128: the four round steps, byte by byte, with R126's permutation written out. -/
def Obligations.RoundStepsActByteByByte : Prop := ∀ st : Block,
  (∀ k < 16, byteAt (subBytes st) k = sbox (byteAt st k)) ∧
  (∀ r < 4, ∀ c < 4, byteAt (shiftRows st) (4 * c + r) = byteAt st (4 * ((c + r) % 4) + r)) ∧
  (∀ k < 16, byteAt (shiftRows st) k =
    byteAt st ([0, 5, 10, 15, 4, 9, 14, 3, 8, 13, 2, 7, 12, 1, 6, 11].getD k 0)) ∧
  (∀ c < 4, ∀ a0 a1 a2 a3 : Byte, byteAt st (4 * c) = a0 → byteAt st (4 * c + 1) = a1 → byteAt st (4 * c + 2) = a2 →
    byteAt st (4 * c + 3) = a3 →
    byteAt (mixColumns st) (4 * c) = xtime a0 ^^^ (xtime a1 ^^^ a1) ^^^ a2 ^^^ a3 ∧
    byteAt (mixColumns st) (4 * c + 1) = a0 ^^^ xtime a1 ^^^ (xtime a2 ^^^ a2) ^^^ a3 ∧
    byteAt (mixColumns st) (4 * c + 2) = a0 ^^^ a1 ^^^ xtime a2 ^^^ (xtime a3 ^^^ a3) ∧
    byteAt (mixColumns st) (4 * c + 3) = (xtime a0 ^^^ a0) ^^^ a1 ^^^ a2 ^^^ xtime a3) ∧
  (∀ (rk : List Block) (round : Nat), ∀ k < 16,
    byteAt (addRoundKey rk round st) k = byteAt st k ^^^ byteAt (rk.getD round 0) k)

/-- R131: the cipher is the first round key, rounds 1 to `nr - 1` in order, and the final round without MixColumns. -/
def Obligations.CipherRunsItsRoundsInOrder : Prop := ∀ (nr : Nat) (rk : List Block) (b : Block),
  cipher nr rk b = addRoundKey rk nr (shiftRows (subBytes ((List.range (nr - 1)).foldl
    (fun st r => addRoundKey rk (r + 1) (mixColumns (shiftRows (subBytes st)))) (addRoundKey rk 0 b))))

/-- R123: the table is the affine map of the inverse in GF(2^8), and a bijection. The formula is the spec's "from general
knowledge, not in source". -/
def Obligations.SboxIsAffineOfInverse : Prop :=
  sbox 0 = sboxAffine 0 ^^^ 0x63 ∧
  (∀ b : Byte, b ≠ 0 → ∃ y, gf8mul b y = 1 ∧ sbox b = sboxAffine y ^^^ 0x63) ∧
  Function.Bijective sbox

/-- Under every schedule the cipher is a bijection of blocks (derived from R123 and R125 to R131). -/
def Obligations.CipherIsABijectionOfBlocks : Prop :=
  ∀ (nr : Nat) (rk : List Block), Function.Bijective (cipher nr rk)

/-! ## The GF(2^128) multiplier and GHASH -/

/-- R150: the 128 iterations of the multiply loop, with the feedback in byte 0. -/
def Obligations.GmulFollowsTheLoop : Prop := ∀ x y : Block, ∃ z v : Nat → Block,
  z 0 = 0 ∧ v 0 = y ∧ gmul x y = z 128 ∧ ∀ i < 128,
    z (i + 1) = (if (byteAt x (i / 8)).getLsbD (7 - i % 8) then z i ^^^ v i else z i) ∧
    (∀ k < 16, byteAt (v (i + 1)) k =
      byteAt (v i >>> 1) k ^^^ (if byteAt (v i) 15 &&& 1 = 1 ∧ k = 0 then 0xE1 else 0))

/-- R151: the right shift of a block, byte by byte; and so the multiplier's shift, with R150's 0xE1 in byte 0 when the
bit shifted out of byte 15 is 1. -/
def Obligations.BlockShiftCarriesAcrossBytes : Prop := ∀ v : Block,
  byteAt (v >>> 1) 0 = byteAt v 0 >>> 1 ∧
  (∀ k, 1 ≤ k → k < 16 → byteAt (v >>> 1) k = (byteAt v k >>> 1) ||| ((byteAt v (k - 1) &&& 1) <<< 7)) ∧
  byteAt (gmulShift v) 0 = (byteAt v 0 >>> 1) ^^^ (if byteAt v 15 &&& 1 = 1 then 0xE1 else 0) ∧
  (∀ k, 1 ≤ k → k < 16 → byteAt (gmulShift v) k = (byteAt v k >>> 1) ||| ((byteAt v (k - 1) &&& 1) <<< 7))

/-- R152: read as polynomials over GF(2), bit `i` of a block the coefficient of `x^i`, `gmul(X, Y)` is the product
modulo `x^128 + x^7 + x^2 + x + 1`. -/
def Obligations.GmulIsThePolynomialProduct : Prop := ∀ x y : Block,
  let poly : Block → Polynomial (ZMod 2) := fun a =>
    ∑ i ∈ Finset.range 128, if gcmBit a i then Polynomial.X ^ i else 0
  (Polynomial.X ^ 128 + Polynomial.X ^ 7 + Polynomial.X ^ 2 + Polynomial.X + 1 : Polynomial (ZMod 2)) ∣
    poly (gmul x y) - poly x * poly y

/-- R152's consequences: gmul is commutative and associative, distributes over XOR, has zero `0^128` and identity
`80 00 .. 00`. -/
def Obligations.GmulIsACommutativeRingProduct : Prop := ∀ x y z : Block,
  gmul x y = gmul y x ∧ gmul (gmul x y) z = gmul x (gmul y z) ∧ gmul (x ^^^ y) z = gmul x z ^^^ gmul y z ∧
  gmul 0 y = 0 ∧ gmul 0x80000000000000000000000000000000 y = y

/-- The bytes of DIN past LEN are ignored by GHASH (R161, R162). -/
def Obligations.GhashIgnoresBytesPastLen : Prop :=
  ∀ (s : State) (len : BitVec 5) (d : Block), s.err = false → legalLen len = true →
    (∀ k < len.toNat, byteAt d k = byteAt s.din k) →
    ∃ v, exec (.ghash len) s = .next { s with s := v } ∧
      exec (.ghash len) { s with din := d } = .next { s with din := d, s := v }

/-- R163: the chunks of `D` are `D` cut into pieces of 16 bytes, the last of 1 to 16, each absorbed with zeros after it;
and from every state with ERR = 0, the events of `GHASHBUF D` leave in S the source's GHASH of `D`, and change no register
but S and DIN. The queue of events is the model's (assumption log 2). -/
def Obligations.GhashbufComputesTheSourcesGhash : Prop :=
  (∀ d : List Byte, (chunks d.length d).flatten = d ∧ ∀ i < (chunks d.length d).length,
    1 ≤ ((chunks d.length d).getD i []).length ∧ ((chunks d.length d).getD i []).length ≤ 16 ∧
    (i + 1 < (chunks d.length d).length → ((chunks d.length d).getD i []).length = 16)) ∧
  (∀ p : List Byte, ∀ k < 16, byteAt (chunkBlock p) k = p.getD k 0) ∧
  ∀ (s : State) (d : List Byte) (es : List HostEvent), s.err = false → s.pending = ghashBuf d ++ es →
    ∃ din rsp, Host.Core.run Sys2Proof.core (5 * (chunks d.length d).length) s =
      .next { s with s := ghashBuffer s.h s.s d, din := din, rsp := rsp, pending := es }

/-! ## The counter -/

/-- R170: the last four bytes, as a big-endian number, plus 1 modulo 2^32; the first twelve unchanged. -/
def Obligations.Inc32AddsOneToTheLastWord : Prop := ∀ c : Block,
  (be32 (inc32 c) 3).toNat = ((be32 c 3).toNat + 1) % 2 ^ 32 ∧ ∀ k < 12, byteAt (inc32 c) k = byteAt c k

/-- After `n` increments the counter has advanced by `n` modulo 2^32 and the prefix is untouched, so that it repeats
after 2^32 and not before (R170, R171, R177). -/
def Obligations.CounterRepeatsAfterTwoToThirtyTwo : Prop := ∀ (c : Block) (n : Nat),
  (be32 (inc32^[n] c) 3).toNat = ((be32 c 3).toNat + n) % 2 ^ 32 ∧ (∀ k < 12, byteAt (inc32^[n] c) k = byteAt c k) ∧
  (inc32^[n] c = c ↔ 2 ^ 32 ∣ n)

/-- R175, R176: a run of CTRX commands uses the counters `C0, inc32(C0), ...` one after another and leaves CTR at the
next one; DOUT is the last block's result. DIN is one block throughout; CTRBUF, which loads each block first, is
`CtrbufXorsWithSuccessiveKeystreamBlocks`. -/
def Obligations.CtrxRunUsesSuccessiveCounters : Prop :=
  ∀ (s : State) (lens : List (BitVec 5)) (len : BitVec 5), s.err = false → s.kvalid = true →
    (∀ l ∈ lens, legalLen l = true) → legalLen len = true →
    ∃ d : Block, (∀ k < 16, byteAt d k = if k < len.toNat then
        byteAt s.din k ^^^ byteAt (cipher s.keyw.nr s.rk (inc32^[lens.length] s.ctr)) k else 0) ∧
      execAll ((lens ++ [len]).map .ctrx) s = .next { s with dout := d, ctr := inc32^[lens.length + 1] s.ctr }

/-- The same CTRX applied to its own output with the same starting CTR gives back DIN (R172): the first LEN bytes. -/
def Obligations.CtrxUndoesItself : Prop :=
  ∀ (s : State) (len : BitVec 5), s.err = false → s.kvalid = true → legalLen len = true →
    ∃ t u, exec (.ctrx len) s = .next t ∧ exec (.ctrx len) { t with din := t.dout, ctr := s.ctr } = .next u ∧
      ∀ k < 16, byteAt u.dout k = if k < len.toNat then byteAt s.din k else 0

/-- The pseudo-instructions `LD16` load the block they name into DIN, H, S or CTR, whatever ERR is, in four steps (R54,
R90). -/
def Obligations.Ld16LoadsTheBlock : Prop := ∀ (s : State) (b : Block) (es : List HostEvent),
  (s.pending = ld16 .din b ++ es → Host.Core.run Sys2Proof.core 4 s =
    .next { s with din := b, rsp := some ⟨0, false⟩, pending := es }) ∧
  (s.pending = ld16 .h b ++ es → Host.Core.run Sys2Proof.core 4 s =
    .next { s with h := b, rsp := some ⟨0, false⟩, pending := es }) ∧
  (s.pending = ld16 .s b ++ es → Host.Core.run Sys2Proof.core 4 s =
    .next { s with s := b, rsp := some ⟨0, false⟩, pending := es }) ∧
  (s.pending = ld16 .ctr b ++ es → Host.Core.run Sys2Proof.core 4 s =
    .next { s with ctr := b, rsp := some ⟨0, false⟩, pending := es })

/-- R175, R176: from every state with ERR = 0 and KVALID = 1, the events of `CTRBUF D` XOR block `b` of `D` with
`Cipher(inc32^b(C0), RK)`, `C0` the counter before: the CTRX of block `b` leaves it in DOUT, with zeros past the end of
`D`, the four reads after it return its words, and after the `k` blocks CTR is `inc32^k(C0)` and no register but DIN, DOUT
and CTR has changed. The queue of events is the model's (assumption log 2). -/
def Obligations.CtrbufXorsWithSuccessiveKeystreamBlocks : Prop :=
  ∀ (s : State) (d : List Byte) (es : List HostEvent), s.err = false → s.kvalid = true → s.pending = ctrBuf d ++ es →
    (∀ b, 16 * b < d.length → ∃ x : Block,
      (∀ k < 16, byteAt x k = if 16 * b + k < d.length then
        d.getD (16 * b + k) 0 ^^^ byteAt (cipher s.keyw.nr s.rk (inc32^[b] s.ctr)) k else 0) ∧
      (∃ t : State, Host.Core.run Sys2Proof.core (9 * b + 5) s = .next t ∧ t.dout = x ∧ t.ctr = inc32^[b + 1] s.ctr) ∧
      ∀ j < 4, ∃ t : State, Host.Core.run Sys2Proof.core (9 * b + 6 + j) s = .next t ∧
        t.rsp = some ⟨be32 x j, false⟩) ∧
    ∃ din dout rsp, Host.Core.run Sys2Proof.core (9 * ((d.length + 15) / 16)) s = .next { s with
      din := din, dout := dout, ctr := inc32^[(d.length + 15) / 16] s.ctr, rsp := rsp, pending := es }
end

