-- ==== Sys2Proof/Laws/Bytes.lean ====
section
/-! SUPPORT. Bytes and words of byte strings: what reading after building or writing gives, and that a string is its
bytes. -/

namespace Sys2Proof.Machine

/-! ## Bits of bytes and words -/

theorem getLsbD_byteAt {w : Nat} (b : BitVec w) (k i : Nat) :
    (byteAt b k).getLsbD i = (decide (i < 8) && b.getLsbD (w - 8 * (k + 1) + i)) := by
  simp [byteAt]

theorem getLsbD_be32 {w : Nat} (b : BitVec w) (j i : Nat) :
    (be32 b j).getLsbD i = (decide (i < 32) && b.getLsbD (w - 32 * (j + 1) + i)) := by
  simp [be32]

theorem getLsbD_mask (i : Nat) : (0xFFFFFFFF#32).getLsbD i = decide (i < 32) := by
  have : (0xFFFFFFFF#32) = BitVec.allOnes 32 := by decide
  rw [this, BitVec.getLsbD_allOnes]

theorem getLsbD_setBe32 {w : Nat} (b : BitVec w) (j : Nat) (v : Word) (i : Nat) (hi : i < w) :
    (setBe32 b j v).getLsbD i =
      if w - 32 * (j + 1) ≤ i ∧ i < w - 32 * (j + 1) + 32 then v.getLsbD (i - (w - 32 * (j + 1))) else b.getLsbD i := by
  simp only [setBe32, BitVec.getLsbD_or, BitVec.getLsbD_and, BitVec.getLsbD_not, BitVec.getLsbD_shiftLeft,
    BitVec.getLsbD_setWidth, getLsbD_mask, hi, decide_true, Bool.true_and]
  by_cases h1 : i < w - 32 * (j + 1)
  · have h2 : ¬ (w - 32 * (j + 1) ≤ i) := by omega
    simp [h1, h2]
  · by_cases h3 : i < w - 32 * (j + 1) + 32
    · have h4 : i - (w - 32 * (j + 1)) < 32 := by omega
      have h5 : i - (w - 32 * (j + 1)) < w := by omega
      have h6 : w - 32 * (j + 1) ≤ i := by omega
      simp [h1, h3, h4, h5, h6]
    · have h4 : ¬ (i - (w - 32 * (j + 1)) < 32) := by omega
      have h5 : v.getLsbD (i - (w - 32 * (j + 1))) = false := BitVec.getLsbD_of_ge _ _ (by omega)
      simp [h1, h3, h4, h5]

/-! ## Words of a register after a word write -/

/-- A word reads back as written. -/
theorem be32_setBe32_same {w : Nat} (b : BitVec w) (j : Nat) (v : Word) (hj : 32 * (j + 1) ≤ w) :
    be32 (setBe32 b j v) j = v := by
  refine BitVec.eq_of_getLsbD_eq fun i hi => ?_
  rw [getLsbD_be32, getLsbD_setBe32 _ _ _ _ (by omega), if_pos (by omega)]
  simp [hi]

/-- Every other word reads as before. -/
theorem be32_setBe32_ne {w : Nat} (b : BitVec w) (j j' : Nat) (v : Word) (hj : 32 * (j + 1) ≤ w)
    (hj' : 32 * (j' + 1) ≤ w) (hne : j' ≠ j) : be32 (setBe32 b j v) j' = be32 b j' := by
  refine BitVec.eq_of_getLsbD_eq fun i hi => ?_
  rw [getLsbD_be32, getLsbD_be32, getLsbD_setBe32 _ _ _ _ (by omega), if_neg (by omega)]

/-! ## Bytes of a block -/

/-- A block is its sixteen bytes. -/
theorem block_ext {a b : Block} (h : ∀ k < 16, byteAt a k = byteAt b k) : a = b := by
  refine BitVec.eq_of_getLsbD_eq fun i hi => ?_
  have hk := congrArg (fun x => BitVec.getLsbD x (i % 8)) (h (15 - i / 8) (by omega))
  simp only [getLsbD_byteAt] at hk
  have h8 : i % 8 < 8 := Nat.mod_lt _ (by decide)
  have he : 128 - 8 * (15 - i / 8 + 1) + i % 8 = i := by omega
  simpa [h8, he] using hk

/-- Byte `k` of a block built from bytes. -/
theorem byteAt_blockOfBytes (f : Nat → Byte) {k : Nat} (hk : k < 16) : byteAt (blockOfBytes f) k = f k := by
  refine BitVec.eq_of_getLsbD_eq fun i hi => ?_
  rw [getLsbD_byteAt]
  simp only [blockOfBytes, blockOfWords, wordOfBytes, BitVec.getLsbD_append, hi, decide_true, Bool.true_and]
  interval_cases k <;> interval_cases i <;> rfl

/-- A block built from its own bytes is itself. -/
theorem blockOfBytes_byteAt (b : Block) : blockOfBytes (byteAt b) = b :=
  block_ext fun _ hk => byteAt_blockOfBytes _ hk

/-- Bytes of an XOR. -/
theorem byteAt_xor {w : Nat} (a b : BitVec w) (k : Nat) : byteAt (a ^^^ b) k = byteAt a k ^^^ byteAt b k := by
  refine BitVec.eq_of_getLsbD_eq fun i hi => ?_
  simp only [getLsbD_byteAt, BitVec.getLsbD_xor, hi, decide_true, Bool.true_and]

/-- Two blocks built from functions that agree on 0 to 15 are equal. -/
theorem blockOfBytes_congr {f g : Nat → Byte} (h : ∀ k < 16, f k = g k) : blockOfBytes f = blockOfBytes g :=
  block_ext fun k hk => by rw [byteAt_blockOfBytes f hk, byteAt_blockOfBytes g hk, h k hk]

/-! ## Operand forms -/

/-- The bytes of a padded block. -/
theorem byteAt_padBlock (n : Nat) (b : Block) {k : Nat} (hk : k < 16) :
    byteAt (padBlock n b) k = if k < n then byteAt b k else 0 := byteAt_blockOfBytes _ hk

/-- A full block is padded with nothing. -/
theorem padBlock_full (b : Block) : padBlock 16 b = b :=
  block_ext fun k hk => by rw [byteAt_padBlock _ _ hk, if_pos hk]

/-- Bit `i` in the GCM order is bit `i` counted from the most significant. -/
theorem gcmBit_eq_getMsbD (b : Block) {i : Nat} (hi : i < 128) : gcmBit b i = b.getMsbD i := by
  have h8 : 7 - i % 8 < 8 := by omega
  have he : 128 - 8 * (i / 8 + 1) + (7 - i % 8) = 128 - 1 - i := by omega
  rw [gcmBit, getLsbD_byteAt, BitVec.getMsbD, he]
  simp [h8, hi]

end Sys2Proof.Machine
end

