-- ==== Sys2Proof/Laws/Decode.lean ====
section
/-! SUPPORT. What the decoder's answer says of the word (spec/30_encoding.md rules R81, R85). -/

namespace Sys2Proof

/-- A selected row is the one whose opcode the word has, with the row's format. -/
theorem select_some {w : Word} {f : Format} {i : Instr} (h : select w = some (f, i)) :
    opField w = opcode i ∧ f = format i := by
  unfold select at h
  repeat' split at h
  all_goals first
    | (injection h with h; injection h with hf hi; subst hf; subst hi; exact ⟨by assumption, rfl⟩)
    | cases h

/-- A word decodes to `i` exactly when it selects `i` and no bit that `i`'s format reserves is set. -/
theorem decode_ok_iff {w : Word} {i : Instr} :
    decode w = .ok i ↔ select w = some (format i, i) ∧ reservedClear (format i) w = true := by
  unfold decode
  cases hs : select w with
  | none => simp
  | some p =>
    obtain ⟨f, j⟩ := p
    have hf := (select_some hs).2
    subst hf
    cases hr : reservedClear (format j) w
    · simp only [hr, Bool.false_eq_true, if_false, Option.some.injEq, Prod.mk.injEq]
      constructor
      · intro h; cases h
      · rintro ⟨⟨_, rfl⟩, hc⟩; rw [hr] at hc; cases hc
    · simp only [hr, if_true, Option.some.injEq, Prod.mk.injEq]
      constructor
      · intro h; injection h with h; subst h; exact ⟨⟨rfl, rfl⟩, hr⟩
      · rintro ⟨⟨_, rfl⟩, _⟩; rfl

/-- A word is rejected as ILLEGAL_OP exactly when it selects no row. -/
theorem decode_illegalOp_iff {w : Word} : decode w = .error .illegalOp ↔ select w = none := by
  unfold decode
  split
  · simp [*]
  · split <;> simp [*]

/-- A word is rejected as RSVD_BITS exactly when it selects a row and a bit the row's format reserves is set. -/
theorem decode_rsvdBits_iff {w : Word} :
    decode w = .error .rsvdBits ↔ ∃ f i, select w = some (f, i) ∧ reservedClear f w = false := by
  unfold decode
  split
  · simp [*]
  · rename_i f i h
    cases hr : reservedClear f w <;> simp [h, hr]

end Sys2Proof
end

