-- ==== Sys2Proof/Laws/State.lean ====
section
/-! SUPPORT. One lemma per field of State per update, so that no later proof unfolds a record update. -/

namespace Sys2Proof.Machine

/-! ## setKey -/

@[simp] theorem setKey_keyw (st : State) (v : KeyString) : (st.setKey v).keyw = st.keyw := rfl
@[simp] theorem setKey_kvalid (st : State) (v : KeyString) : (st.setKey v).kvalid = st.kvalid := rfl
@[simp] theorem setKey_err (st : State) (v : KeyString) : (st.setKey v).err = st.err := rfl
@[simp] theorem setKey_errcode (st : State) (v : KeyString) : (st.setKey v).errcode = st.errcode := rfl
@[simp] theorem setKey_errcmd (st : State) (v : KeyString) : (st.setKey v).errcmd = st.errcmd := rfl
@[simp] theorem setKey_key (st : State) (v : KeyString) : (st.setKey v).key = v := rfl
@[simp] theorem setKey_rk (st : State) (v : KeyString) : (st.setKey v).rk = st.rk := rfl
@[simp] theorem setKey_din (st : State) (v : KeyString) : (st.setKey v).din = st.din := rfl
@[simp] theorem setKey_dout (st : State) (v : KeyString) : (st.setKey v).dout = st.dout := rfl
@[simp] theorem setKey_h (st : State) (v : KeyString) : (st.setKey v).h = st.h := rfl
@[simp] theorem setKey_s (st : State) (v : KeyString) : (st.setKey v).s = st.s := rfl
@[simp] theorem setKey_ctr (st : State) (v : KeyString) : (st.setKey v).ctr = st.ctr := rfl
@[simp] theorem setKey_rsp (st : State) (v : KeyString) : (st.setKey v).rsp = st.rsp := rfl
@[simp] theorem setKey_pending (st : State) (v : KeyString) : (st.setKey v).pending = st.pending := rfl

/-! ## setSchedule -/

@[simp] theorem setSchedule_keyw (st : State) (v : List Block) : (st.setSchedule v).keyw = st.keyw := rfl
@[simp] theorem setSchedule_kvalid (st : State) (v : List Block) : (st.setSchedule v).kvalid = true := rfl
@[simp] theorem setSchedule_err (st : State) (v : List Block) : (st.setSchedule v).err = st.err := rfl
@[simp] theorem setSchedule_errcode (st : State) (v : List Block) : (st.setSchedule v).errcode = st.errcode := rfl
@[simp] theorem setSchedule_errcmd (st : State) (v : List Block) : (st.setSchedule v).errcmd = st.errcmd := rfl
@[simp] theorem setSchedule_key (st : State) (v : List Block) : (st.setSchedule v).key = st.key := rfl
@[simp] theorem setSchedule_rk (st : State) (v : List Block) : (st.setSchedule v).rk = v := rfl
@[simp] theorem setSchedule_din (st : State) (v : List Block) : (st.setSchedule v).din = st.din := rfl
@[simp] theorem setSchedule_dout (st : State) (v : List Block) : (st.setSchedule v).dout = st.dout := rfl
@[simp] theorem setSchedule_h (st : State) (v : List Block) : (st.setSchedule v).h = st.h := rfl
@[simp] theorem setSchedule_s (st : State) (v : List Block) : (st.setSchedule v).s = st.s := rfl
@[simp] theorem setSchedule_ctr (st : State) (v : List Block) : (st.setSchedule v).ctr = st.ctr := rfl
@[simp] theorem setSchedule_rsp (st : State) (v : List Block) : (st.setSchedule v).rsp = st.rsp := rfl
@[simp] theorem setSchedule_pending (st : State) (v : List Block) : (st.setSchedule v).pending = st.pending := rfl

/-! ## setDin -/

@[simp] theorem setDin_keyw (st : State) (v : Block) : (st.setDin v).keyw = st.keyw := rfl
@[simp] theorem setDin_kvalid (st : State) (v : Block) : (st.setDin v).kvalid = st.kvalid := rfl
@[simp] theorem setDin_err (st : State) (v : Block) : (st.setDin v).err = st.err := rfl
@[simp] theorem setDin_errcode (st : State) (v : Block) : (st.setDin v).errcode = st.errcode := rfl
@[simp] theorem setDin_errcmd (st : State) (v : Block) : (st.setDin v).errcmd = st.errcmd := rfl
@[simp] theorem setDin_key (st : State) (v : Block) : (st.setDin v).key = st.key := rfl
@[simp] theorem setDin_rk (st : State) (v : Block) : (st.setDin v).rk = st.rk := rfl
@[simp] theorem setDin_din (st : State) (v : Block) : (st.setDin v).din = v := rfl
@[simp] theorem setDin_dout (st : State) (v : Block) : (st.setDin v).dout = st.dout := rfl
@[simp] theorem setDin_h (st : State) (v : Block) : (st.setDin v).h = st.h := rfl
@[simp] theorem setDin_s (st : State) (v : Block) : (st.setDin v).s = st.s := rfl
@[simp] theorem setDin_ctr (st : State) (v : Block) : (st.setDin v).ctr = st.ctr := rfl
@[simp] theorem setDin_rsp (st : State) (v : Block) : (st.setDin v).rsp = st.rsp := rfl
@[simp] theorem setDin_pending (st : State) (v : Block) : (st.setDin v).pending = st.pending := rfl

/-! ## setDout -/

@[simp] theorem setDout_keyw (st : State) (v : Block) : (st.setDout v).keyw = st.keyw := rfl
@[simp] theorem setDout_kvalid (st : State) (v : Block) : (st.setDout v).kvalid = st.kvalid := rfl
@[simp] theorem setDout_err (st : State) (v : Block) : (st.setDout v).err = st.err := rfl
@[simp] theorem setDout_errcode (st : State) (v : Block) : (st.setDout v).errcode = st.errcode := rfl
@[simp] theorem setDout_errcmd (st : State) (v : Block) : (st.setDout v).errcmd = st.errcmd := rfl
@[simp] theorem setDout_key (st : State) (v : Block) : (st.setDout v).key = st.key := rfl
@[simp] theorem setDout_rk (st : State) (v : Block) : (st.setDout v).rk = st.rk := rfl
@[simp] theorem setDout_din (st : State) (v : Block) : (st.setDout v).din = st.din := rfl
@[simp] theorem setDout_dout (st : State) (v : Block) : (st.setDout v).dout = v := rfl
@[simp] theorem setDout_h (st : State) (v : Block) : (st.setDout v).h = st.h := rfl
@[simp] theorem setDout_s (st : State) (v : Block) : (st.setDout v).s = st.s := rfl
@[simp] theorem setDout_ctr (st : State) (v : Block) : (st.setDout v).ctr = st.ctr := rfl
@[simp] theorem setDout_rsp (st : State) (v : Block) : (st.setDout v).rsp = st.rsp := rfl
@[simp] theorem setDout_pending (st : State) (v : Block) : (st.setDout v).pending = st.pending := rfl

/-! ## setH -/

@[simp] theorem setH_keyw (st : State) (v : Block) : (st.setH v).keyw = st.keyw := rfl
@[simp] theorem setH_kvalid (st : State) (v : Block) : (st.setH v).kvalid = st.kvalid := rfl
@[simp] theorem setH_err (st : State) (v : Block) : (st.setH v).err = st.err := rfl
@[simp] theorem setH_errcode (st : State) (v : Block) : (st.setH v).errcode = st.errcode := rfl
@[simp] theorem setH_errcmd (st : State) (v : Block) : (st.setH v).errcmd = st.errcmd := rfl
@[simp] theorem setH_key (st : State) (v : Block) : (st.setH v).key = st.key := rfl
@[simp] theorem setH_rk (st : State) (v : Block) : (st.setH v).rk = st.rk := rfl
@[simp] theorem setH_din (st : State) (v : Block) : (st.setH v).din = st.din := rfl
@[simp] theorem setH_dout (st : State) (v : Block) : (st.setH v).dout = st.dout := rfl
@[simp] theorem setH_h (st : State) (v : Block) : (st.setH v).h = v := rfl
@[simp] theorem setH_s (st : State) (v : Block) : (st.setH v).s = st.s := rfl
@[simp] theorem setH_ctr (st : State) (v : Block) : (st.setH v).ctr = st.ctr := rfl
@[simp] theorem setH_rsp (st : State) (v : Block) : (st.setH v).rsp = st.rsp := rfl
@[simp] theorem setH_pending (st : State) (v : Block) : (st.setH v).pending = st.pending := rfl

/-! ## setS -/

@[simp] theorem setS_keyw (st : State) (v : Block) : (st.setS v).keyw = st.keyw := rfl
@[simp] theorem setS_kvalid (st : State) (v : Block) : (st.setS v).kvalid = st.kvalid := rfl
@[simp] theorem setS_err (st : State) (v : Block) : (st.setS v).err = st.err := rfl
@[simp] theorem setS_errcode (st : State) (v : Block) : (st.setS v).errcode = st.errcode := rfl
@[simp] theorem setS_errcmd (st : State) (v : Block) : (st.setS v).errcmd = st.errcmd := rfl
@[simp] theorem setS_key (st : State) (v : Block) : (st.setS v).key = st.key := rfl
@[simp] theorem setS_rk (st : State) (v : Block) : (st.setS v).rk = st.rk := rfl
@[simp] theorem setS_din (st : State) (v : Block) : (st.setS v).din = st.din := rfl
@[simp] theorem setS_dout (st : State) (v : Block) : (st.setS v).dout = st.dout := rfl
@[simp] theorem setS_h (st : State) (v : Block) : (st.setS v).h = st.h := rfl
@[simp] theorem setS_s (st : State) (v : Block) : (st.setS v).s = v := rfl
@[simp] theorem setS_ctr (st : State) (v : Block) : (st.setS v).ctr = st.ctr := rfl
@[simp] theorem setS_rsp (st : State) (v : Block) : (st.setS v).rsp = st.rsp := rfl
@[simp] theorem setS_pending (st : State) (v : Block) : (st.setS v).pending = st.pending := rfl

/-! ## setCtr -/

@[simp] theorem setCtr_keyw (st : State) (v : Block) : (st.setCtr v).keyw = st.keyw := rfl
@[simp] theorem setCtr_kvalid (st : State) (v : Block) : (st.setCtr v).kvalid = st.kvalid := rfl
@[simp] theorem setCtr_err (st : State) (v : Block) : (st.setCtr v).err = st.err := rfl
@[simp] theorem setCtr_errcode (st : State) (v : Block) : (st.setCtr v).errcode = st.errcode := rfl
@[simp] theorem setCtr_errcmd (st : State) (v : Block) : (st.setCtr v).errcmd = st.errcmd := rfl
@[simp] theorem setCtr_key (st : State) (v : Block) : (st.setCtr v).key = st.key := rfl
@[simp] theorem setCtr_rk (st : State) (v : Block) : (st.setCtr v).rk = st.rk := rfl
@[simp] theorem setCtr_din (st : State) (v : Block) : (st.setCtr v).din = st.din := rfl
@[simp] theorem setCtr_dout (st : State) (v : Block) : (st.setCtr v).dout = st.dout := rfl
@[simp] theorem setCtr_h (st : State) (v : Block) : (st.setCtr v).h = st.h := rfl
@[simp] theorem setCtr_s (st : State) (v : Block) : (st.setCtr v).s = st.s := rfl
@[simp] theorem setCtr_ctr (st : State) (v : Block) : (st.setCtr v).ctr = v := rfl
@[simp] theorem setCtr_rsp (st : State) (v : Block) : (st.setCtr v).rsp = st.rsp := rfl
@[simp] theorem setCtr_pending (st : State) (v : Block) : (st.setCtr v).pending = st.pending := rfl

/-! ## setRsp -/

@[simp] theorem setRsp_keyw (st : State) (v : Option Response) : (st.setRsp v).keyw = st.keyw := rfl
@[simp] theorem setRsp_kvalid (st : State) (v : Option Response) : (st.setRsp v).kvalid = st.kvalid := rfl
@[simp] theorem setRsp_err (st : State) (v : Option Response) : (st.setRsp v).err = st.err := rfl
@[simp] theorem setRsp_errcode (st : State) (v : Option Response) : (st.setRsp v).errcode = st.errcode := rfl
@[simp] theorem setRsp_errcmd (st : State) (v : Option Response) : (st.setRsp v).errcmd = st.errcmd := rfl
@[simp] theorem setRsp_key (st : State) (v : Option Response) : (st.setRsp v).key = st.key := rfl
@[simp] theorem setRsp_rk (st : State) (v : Option Response) : (st.setRsp v).rk = st.rk := rfl
@[simp] theorem setRsp_din (st : State) (v : Option Response) : (st.setRsp v).din = st.din := rfl
@[simp] theorem setRsp_dout (st : State) (v : Option Response) : (st.setRsp v).dout = st.dout := rfl
@[simp] theorem setRsp_h (st : State) (v : Option Response) : (st.setRsp v).h = st.h := rfl
@[simp] theorem setRsp_s (st : State) (v : Option Response) : (st.setRsp v).s = st.s := rfl
@[simp] theorem setRsp_ctr (st : State) (v : Option Response) : (st.setRsp v).ctr = st.ctr := rfl
@[simp] theorem setRsp_rsp (st : State) (v : Option Response) : (st.setRsp v).rsp = v := rfl
@[simp] theorem setRsp_pending (st : State) (v : Option Response) : (st.setRsp v).pending = st.pending := rfl

/-! ## setPending -/

@[simp] theorem setPending_keyw (st : State) (v : List HostEvent) : (st.setPending v).keyw = st.keyw := rfl
@[simp] theorem setPending_kvalid (st : State) (v : List HostEvent) : (st.setPending v).kvalid = st.kvalid := rfl
@[simp] theorem setPending_err (st : State) (v : List HostEvent) : (st.setPending v).err = st.err := rfl
@[simp] theorem setPending_errcode (st : State) (v : List HostEvent) : (st.setPending v).errcode = st.errcode := rfl
@[simp] theorem setPending_errcmd (st : State) (v : List HostEvent) : (st.setPending v).errcmd = st.errcmd := rfl
@[simp] theorem setPending_key (st : State) (v : List HostEvent) : (st.setPending v).key = st.key := rfl
@[simp] theorem setPending_rk (st : State) (v : List HostEvent) : (st.setPending v).rk = st.rk := rfl
@[simp] theorem setPending_din (st : State) (v : List HostEvent) : (st.setPending v).din = st.din := rfl
@[simp] theorem setPending_dout (st : State) (v : List HostEvent) : (st.setPending v).dout = st.dout := rfl
@[simp] theorem setPending_h (st : State) (v : List HostEvent) : (st.setPending v).h = st.h := rfl
@[simp] theorem setPending_s (st : State) (v : List HostEvent) : (st.setPending v).s = st.s := rfl
@[simp] theorem setPending_ctr (st : State) (v : List HostEvent) : (st.setPending v).ctr = st.ctr := rfl
@[simp] theorem setPending_rsp (st : State) (v : List HostEvent) : (st.setPending v).rsp = st.rsp := rfl
@[simp] theorem setPending_pending (st : State) (v : List HostEvent) : (st.setPending v).pending = v := rfl

/-! ## raiseCmdError -/

@[simp] theorem raiseCmdError_keyw (st : State) (c : CmdError) (w : Word) : (st.raiseCmdError c w).keyw = st.keyw := rfl
@[simp] theorem raiseCmdError_kvalid (st : State) (c : CmdError) (w : Word) : (st.raiseCmdError c w).kvalid = st.kvalid := rfl
@[simp] theorem raiseCmdError_err (st : State) (c : CmdError) (w : Word) : (st.raiseCmdError c w).err = true := rfl
@[simp] theorem raiseCmdError_errcode (st : State) (c : CmdError) (w : Word) : (st.raiseCmdError c w).errcode = c.code := rfl
@[simp] theorem raiseCmdError_errcmd (st : State) (c : CmdError) (w : Word) : (st.raiseCmdError c w).errcmd = w := rfl
@[simp] theorem raiseCmdError_key (st : State) (c : CmdError) (w : Word) : (st.raiseCmdError c w).key = st.key := rfl
@[simp] theorem raiseCmdError_rk (st : State) (c : CmdError) (w : Word) : (st.raiseCmdError c w).rk = st.rk := rfl
@[simp] theorem raiseCmdError_din (st : State) (c : CmdError) (w : Word) : (st.raiseCmdError c w).din = st.din := rfl
@[simp] theorem raiseCmdError_dout (st : State) (c : CmdError) (w : Word) : (st.raiseCmdError c w).dout = st.dout := rfl
@[simp] theorem raiseCmdError_h (st : State) (c : CmdError) (w : Word) : (st.raiseCmdError c w).h = st.h := rfl
@[simp] theorem raiseCmdError_s (st : State) (c : CmdError) (w : Word) : (st.raiseCmdError c w).s = st.s := rfl
@[simp] theorem raiseCmdError_ctr (st : State) (c : CmdError) (w : Word) : (st.raiseCmdError c w).ctr = st.ctr := rfl
@[simp] theorem raiseCmdError_rsp (st : State) (c : CmdError) (w : Word) : (st.raiseCmdError c w).rsp = st.rsp := rfl
@[simp] theorem raiseCmdError_pending (st : State) (c : CmdError) (w : Word) : (st.raiseCmdError c w).pending = st.pending := rfl

/-! ## clearError -/

@[simp] theorem clearError_keyw (st : State) : st.clearError.keyw = st.keyw := rfl
@[simp] theorem clearError_kvalid (st : State) : st.clearError.kvalid = st.kvalid := rfl
@[simp] theorem clearError_err (st : State) : st.clearError.err = false := rfl
@[simp] theorem clearError_errcode (st : State) : st.clearError.errcode = 0 := rfl
@[simp] theorem clearError_errcmd (st : State) : st.clearError.errcmd = 0 := rfl
@[simp] theorem clearError_key (st : State) : st.clearError.key = st.key := rfl
@[simp] theorem clearError_rk (st : State) : st.clearError.rk = st.rk := rfl
@[simp] theorem clearError_din (st : State) : st.clearError.din = st.din := rfl
@[simp] theorem clearError_dout (st : State) : st.clearError.dout = st.dout := rfl
@[simp] theorem clearError_h (st : State) : st.clearError.h = st.h := rfl
@[simp] theorem clearError_s (st : State) : st.clearError.s = st.s := rfl
@[simp] theorem clearError_ctr (st : State) : st.clearError.ctr = st.ctr := rfl
@[simp] theorem clearError_rsp (st : State) : st.clearError.rsp = st.rsp := rfl
@[simp] theorem clearError_pending (st : State) : st.clearError.pending = st.pending := rfl

/-! ## zeroize -/

@[simp] theorem zeroize_keyw (st : State) : st.zeroize.keyw = st.keyw := rfl
@[simp] theorem zeroize_kvalid (st : State) : st.zeroize.kvalid = false := rfl
@[simp] theorem zeroize_err (st : State) : st.zeroize.err = st.err := rfl
@[simp] theorem zeroize_errcode (st : State) : st.zeroize.errcode = st.errcode := rfl
@[simp] theorem zeroize_errcmd (st : State) : st.zeroize.errcmd = st.errcmd := rfl
@[simp] theorem zeroize_key (st : State) : st.zeroize.key = 0 := rfl
@[simp] theorem zeroize_rk (st : State) : st.zeroize.rk = List.replicate st.keyw.roundKeys 0 := rfl
@[simp] theorem zeroize_din (st : State) : st.zeroize.din = 0 := rfl
@[simp] theorem zeroize_dout (st : State) : st.zeroize.dout = 0 := rfl
@[simp] theorem zeroize_h (st : State) : st.zeroize.h = 0 := rfl
@[simp] theorem zeroize_s (st : State) : st.zeroize.s = 0 := rfl
@[simp] theorem zeroize_ctr (st : State) : st.zeroize.ctr = 0 := rfl
@[simp] theorem zeroize_rsp (st : State) : st.zeroize.rsp = st.rsp := rfl
@[simp] theorem zeroize_pending (st : State) : st.zeroize.pending = st.pending := rfl

/-! ## applyReset -/

@[simp] theorem applyReset_keyw (st : State) : st.applyReset.keyw = st.keyw := rfl
@[simp] theorem applyReset_kvalid (st : State) : st.applyReset.kvalid = false := rfl
@[simp] theorem applyReset_err (st : State) : st.applyReset.err = false := rfl
@[simp] theorem applyReset_errcode (st : State) : st.applyReset.errcode = 0 := rfl
@[simp] theorem applyReset_errcmd (st : State) : st.applyReset.errcmd = 0 := rfl
@[simp] theorem applyReset_key (st : State) : st.applyReset.key = 0 := rfl
@[simp] theorem applyReset_rk (st : State) : st.applyReset.rk = List.replicate st.keyw.roundKeys 0 := rfl
@[simp] theorem applyReset_din (st : State) : st.applyReset.din = 0 := rfl
@[simp] theorem applyReset_dout (st : State) : st.applyReset.dout = 0 := rfl
@[simp] theorem applyReset_h (st : State) : st.applyReset.h = 0 := rfl
@[simp] theorem applyReset_s (st : State) : st.applyReset.s = 0 := rfl
@[simp] theorem applyReset_ctr (st : State) : st.applyReset.ctr = 0 := rfl
@[simp] theorem applyReset_rsp (st : State) : st.applyReset.rsp = none := rfl
@[simp] theorem applyReset_pending (st : State) : st.applyReset.pending = st.pending := rfl

/-! ## resetOf -/

@[simp] theorem resetOf_keyw (w : KeyWidth) : (State.resetOf w).keyw = w := rfl
@[simp] theorem resetOf_kvalid (w : KeyWidth) : (State.resetOf w).kvalid = false := rfl
@[simp] theorem resetOf_err (w : KeyWidth) : (State.resetOf w).err = false := rfl
@[simp] theorem resetOf_errcode (w : KeyWidth) : (State.resetOf w).errcode = 0 := rfl
@[simp] theorem resetOf_errcmd (w : KeyWidth) : (State.resetOf w).errcmd = 0 := rfl
@[simp] theorem resetOf_key (w : KeyWidth) : (State.resetOf w).key = 0 := rfl
@[simp] theorem resetOf_rk (w : KeyWidth) : (State.resetOf w).rk = List.replicate w.roundKeys 0 := rfl
@[simp] theorem resetOf_din (w : KeyWidth) : (State.resetOf w).din = 0 := rfl
@[simp] theorem resetOf_dout (w : KeyWidth) : (State.resetOf w).dout = 0 := rfl
@[simp] theorem resetOf_h (w : KeyWidth) : (State.resetOf w).h = 0 := rfl
@[simp] theorem resetOf_s (w : KeyWidth) : (State.resetOf w).s = 0 := rfl
@[simp] theorem resetOf_ctr (w : KeyWidth) : (State.resetOf w).ctr = 0 := rfl
@[simp] theorem resetOf_rsp (w : KeyWidth) : (State.resetOf w).rsp = none := rfl
@[simp] theorem resetOf_pending (w : KeyWidth) : (State.resetOf w).pending = [] := rfl

end Sys2Proof.Machine
end

