-- ==== Sys2Proof/Laws/Step.lean ====
section
/-! SUPPORT. Once for each shared operation, everything it can do: a command's rejection, discard or performance, a bus
write, a transaction, an event, a step. -/

namespace Sys2Proof.Machine

/-! ## Commands -/

/-- While ERR = 1 a command is discarded. -/
theorem runCommand_discarded {w : Word} {c : Option CmdError} {p st : State} (h : st.err = true) :
    runCommand w c p st = .next st := by
  simp [runCommand, h]

/-- With ERR = 0 and a failing check the command is recorded and abandoned. -/
theorem runCommand_rejected {w : Word} {c : CmdError} {p st : State} (h : st.err = false) :
    runCommand w (some c) p st = .next (st.raiseCmdError c w) := by
  simp [runCommand, h]

/-- With ERR = 0 and no failing check the command is performed. -/
theorem runCommand_performed {w : Word} {p st : State} (h : st.err = false) :
    runCommand w none p st = .next p := by
  simp [runCommand, h]

/-- All that `runCommand` can do. -/
theorem runCommand_cases {w : Word} {c : Option CmdError} {p st t : State} (h : runCommand w c p st = .next t) :
    (st.err = true ∧ t = st) ∨ (st.err = false ∧ ∃ e, c = some e ∧ t = st.raiseCmdError e w) ∨
      (st.err = false ∧ c = none ∧ t = p) := by
  cases he : st.err
  · cases c with
    | none => rw [runCommand_performed he] at h; exact .inr (.inr ⟨rfl, rfl, by injection h with h; exact h.symm⟩)
    | some e =>
      rw [runCommand_rejected he] at h
      exact .inr (.inl ⟨rfl, e, rfl, by injection h with h; exact h.symm⟩)
  · rw [runCommand_discarded he] at h; exact .inl ⟨rfl, by injection h with h; exact h.symm⟩

/-- `runCommand` always answers a next state. -/
theorem runCommand_answers (w : Word) (c : Option CmdError) (p st : State) :
    ∃ t, runCommand w c p st = .next t := by
  unfold runCommand
  split
  · exact ⟨_, rfl⟩
  · split <;> exact ⟨_, rfl⟩

/-! ## Checks -/

theorem lenError_legal {len : BitVec 5} (h : legalLen len = true) : lenError len = none := by
  simp [lenError, h]

theorem lenError_illegal {len : BitVec 5} (h : legalLen len = false) : lenError len = some .badLen := by
  simp [lenError, h]

theorem kszError_match (st : State) : kszError st.keyw.ksz st = none := by
  simp [kszError]

theorem kszError_mismatch {ksz : BitVec 2} {st : State} (h : ksz ≠ st.keyw.ksz) :
    kszError ksz st = some .keySize := by
  simp [kszError, h]

theorem keyError_valid {st : State} (h : st.kvalid = true) : keyError st = none := by
  simp [keyError, h]

theorem keyError_invalid {st : State} (h : st.kvalid = false) : keyError st = some .noKey := by
  simp [keyError, h]

/-! ## Commands by the word -/

/-- A word that decodes runs the command it decodes to. -/
theorem command_ok {w : Word} {i : Instr} (h : decode w = .ok i) (st : State) : command w st = exec i st := by
  simp [command, h]

/-- A word that does not decode is discarded or rejected with the decoder's error. -/
theorem command_error {w : Word} {c : CmdError} (h : decode w = .error c) (st : State) :
    command w st = runCommand w (some c) st st := by
  simp [command, h]

/-! ## Bus and step -/

/-- A response is added to a next state and to nothing else. -/
theorem respond_next_iff {r : Response} {o : Host.Outcome State Fault Refusal} {t : State} :
    respond r o = .next t ↔ ∃ u, o = .next u ∧ t = u.setRsp (some r) := by
  cases o with
  | next u => simp [respond, eq_comm]
  | fault e => simp [respond]
  | refused e => simp [respond]

/-- Everything a bus write can do. -/
theorem busWrite_cases {off : BitVec 8} {v : Word} {st t : State} (h : busWrite off v st = .next t) :
    (regAt off = .cmd ∧ command v st = .next t) ∨ (regAt off ≠ .cmd ∧ t = writeReg st v (regAt off)) := by
  unfold busWrite at h
  split at h
  · exact .inl ⟨‹_›, h⟩
  · exact .inr ⟨‹_›, by injection h with h; exact h.symm⟩

/-- Everything a transaction can do: a bus error, a read, or a write. -/
theorem transaction_cases {r : Request} {st t : State} (h : transaction r st = .next t) :
    (r.aligned = false ∧ t = st.setRsp (some ⟨0, true⟩)) ∨
    (r.aligned = true ∧ r.write = false ∧ t = st.setRsp (some ⟨busRead r.addr st, false⟩)) ∨
    (r.aligned = true ∧ r.write = true ∧ ∃ u, busWrite r.addr r.wdata st = .next u ∧
      t = u.setRsp (some ⟨0, false⟩)) := by
  unfold transaction at h
  cases ha : r.aligned <;> cases hw : r.write <;> simp only [ha, hw, if_true, Bool.false_eq_true, if_false] at h
  · obtain ⟨u, hu, ht⟩ := respond_next_iff.1 h
    injection hu with hu; subst hu; exact .inl ⟨rfl, ht⟩
  · obtain ⟨u, hu, ht⟩ := respond_next_iff.1 h
    injection hu with hu; subst hu; exact .inl ⟨rfl, ht⟩
  · obtain ⟨u, hu, ht⟩ := respond_next_iff.1 h
    injection hu with hu; subst hu; exact .inr (.inl ⟨rfl, rfl, ht⟩)
  · exact .inr (.inr ⟨rfl, rfl, respond_next_iff.1 h⟩)

/-- Everything a step can do: wait, take a request, or be reset. -/
theorem step_cases {st t : State} (h : step st = .next t) :
    (st.pending = [] ∧ t = st.setRsp none) ∨
    (∃ r es, st.pending = .request r :: es ∧ transaction r (st.setPending es) = .next t) ∨
    (∃ r es, st.pending = .reset r :: es ∧ t = (st.setPending es).applyReset) := by
  unfold step takeNext at h
  split at h
  · exact .inl ⟨‹_›, by injection h with h; exact h.symm⟩
  · rename_i e es hp
    cases e with
    | request r => exact .inr (.inl ⟨r, es, hp, h⟩)
    | reset r =>
      refine .inr (.inr ⟨r, es, hp, ?_⟩)
      simp only [takeEvent] at h
      injection h with h
      exact h.symm

/-- The step whose next event is known. -/
theorem step_event {st : State} {e : HostEvent} {es : List HostEvent} (h : st.pending = e :: es) :
    step st = takeEvent (st.setPending es) e := by
  simp [step, takeNext, h]

/-- The step with no event waiting. -/
theorem step_idle {st : State} (h : st.pending = []) : step st = .next (st.setRsp none) := by
  simp [step, takeNext, h]

end Sys2Proof.Machine
end

