-- ==== Sys2Proof/Laws/Exec.lean ====
section
/-! SUPPORT. What every command has in common, and what it does when it is performed, rejected or discarded. -/

namespace Sys2Proof.Machine

/-! ## Each command as a check and an effect -/

theorem exec_zeroize (st : State) : exec .zeroize st = .next st.zeroize := rfl

theorem exec_keyexp (k : BitVec 2) (st : State) : exec (.keyexp k) st =
    runCommand (encode (.keyexp k)) (kszError k st) (st.setSchedule (keyExpand st.keyw st.key)) st := rfl

theorem exec_encb (st : State) : exec .encb st =
    runCommand (encode .encb) (keyError st) (st.setDout (st.cipher st.din)) st := rfl

theorem exec_hgen (st : State) : exec .hgen st =
    runCommand (encode .hgen) (keyError st) (st.setH (st.cipher 0)) st := rfl

theorem exec_gmul (st : State) : exec .gmul st =
    runCommand (encode .gmul) none (st.setDout (gmul st.din st.h)) st := rfl

theorem exec_ghinit (st : State) : exec .ghinit st =
    runCommand (encode .ghinit) none (st.setS 0) st := rfl

theorem exec_ghash (l : BitVec 5) (st : State) : exec (.ghash l) st =
    runCommand (encode (.ghash l)) (lenError l) (st.setS (absorb st.h st.s (padBlock (byteCount l) st.din))) st := rfl

theorem exec_ctrx (l : BitVec 5) (st : State) : exec (.ctrx l) st =
    runCommand (encode (.ctrx l)) ((lenError l).or (keyError st))
      ((st.setDout (xorPrefix (byteCount l) st.din (st.cipher st.ctr))).setCtr (inc32 st.ctr)) st := rfl

theorem exec_ctrinc (st : State) : exec .ctrinc st =
    runCommand (encode .ctrinc) none (st.setCtr (inc32 st.ctr)) st := rfl

/-! ## All commands -/

/-- Every command answers a next state. -/
theorem exec_answers (i : Instr) (st : State) : ∃ t, exec i st = .next t := by
  cases i with
  | zeroize => exact ⟨_, rfl⟩
  | keyexp k => rw [exec_keyexp]; exact runCommand_answers _ _ _ _
  | encb => rw [exec_encb]; exact runCommand_answers _ _ _ _
  | hgen => rw [exec_hgen]; exact runCommand_answers _ _ _ _
  | gmul => rw [exec_gmul]; exact runCommand_answers _ _ _ _
  | ghinit => rw [exec_ghinit]; exact runCommand_answers _ _ _ _
  | ghash l => rw [exec_ghash]; exact runCommand_answers _ _ _ _
  | ctrx l => rw [exec_ctrx]; exact runCommand_answers _ _ _ _
  | ctrinc => rw [exec_ctrinc]; exact runCommand_answers _ _ _ _

/-- Every command word answers a next state. -/
theorem command_answers (w : Word) (st : State) : ∃ t, command w st = .next t := by
  unfold command
  split
  · exact exec_answers _ _
  · exact runCommand_answers _ _ _ _

/-- Every command but ZEROIZE is discarded while ERR = 1. -/
theorem exec_discarded {i : Instr} {st : State} (hi : i ≠ .zeroize) (he : st.err = true) : exec i st = .next st := by
  cases i with
  | zeroize => exact absurd rfl hi
  | keyexp k => rw [exec_keyexp]; exact runCommand_discarded he
  | encb => rw [exec_encb]; exact runCommand_discarded he
  | hgen => rw [exec_hgen]; exact runCommand_discarded he
  | gmul => rw [exec_gmul]; exact runCommand_discarded he
  | ghinit => rw [exec_ghinit]; exact runCommand_discarded he
  | ghash l => rw [exec_ghash]; exact runCommand_discarded he
  | ctrx l => rw [exec_ctrx]; exact runCommand_discarded he
  | ctrinc => rw [exec_ctrinc]; exact runCommand_discarded he

/-- No command changes the build, the events still to come, or the last response. -/
theorem exec_keeps_environment {i : Instr} {st t : State} (h : exec i st = .next t) :
    t.keyw = st.keyw ∧ t.pending = st.pending ∧ t.rsp = st.rsp := by
  cases i with
  | zeroize => rw [exec_zeroize] at h; injection h with h; subst h; exact ⟨rfl, rfl, rfl⟩
  | keyexp k =>
    rw [exec_keyexp] at h
    rcases runCommand_cases h with ⟨_, rfl⟩ | ⟨_, _, _, rfl⟩ | ⟨_, _, rfl⟩ <;> exact ⟨rfl, rfl, rfl⟩
  | encb =>
    rw [exec_encb] at h
    rcases runCommand_cases h with ⟨_, rfl⟩ | ⟨_, _, _, rfl⟩ | ⟨_, _, rfl⟩ <;> exact ⟨rfl, rfl, rfl⟩
  | hgen =>
    rw [exec_hgen] at h
    rcases runCommand_cases h with ⟨_, rfl⟩ | ⟨_, _, _, rfl⟩ | ⟨_, _, rfl⟩ <;> exact ⟨rfl, rfl, rfl⟩
  | gmul =>
    rw [exec_gmul] at h
    rcases runCommand_cases h with ⟨_, rfl⟩ | ⟨_, _, _, rfl⟩ | ⟨_, _, rfl⟩ <;> exact ⟨rfl, rfl, rfl⟩
  | ghinit =>
    rw [exec_ghinit] at h
    rcases runCommand_cases h with ⟨_, rfl⟩ | ⟨_, _, _, rfl⟩ | ⟨_, _, rfl⟩ <;> exact ⟨rfl, rfl, rfl⟩
  | ghash l =>
    rw [exec_ghash] at h
    rcases runCommand_cases h with ⟨_, rfl⟩ | ⟨_, _, _, rfl⟩ | ⟨_, _, rfl⟩ <;> exact ⟨rfl, rfl, rfl⟩
  | ctrx l =>
    rw [exec_ctrx] at h
    rcases runCommand_cases h with ⟨_, rfl⟩ | ⟨_, _, _, rfl⟩ | ⟨_, _, rfl⟩ <;> exact ⟨rfl, rfl, rfl⟩
  | ctrinc =>
    rw [exec_ctrinc] at h
    rcases runCommand_cases h with ⟨_, rfl⟩ | ⟨_, _, _, rfl⟩ | ⟨_, _, rfl⟩ <;> exact ⟨rfl, rfl, rfl⟩

end Sys2Proof.Machine
end

