-- ==== Sys2Proof/Laws/KeySchedule.lean ====
section
/-! SUPPORT. The parameters of R8 as numbers, and what the key expansion appends. -/

namespace Sys2Proof

@[simp] theorem nk_k128 : KeyWidth.k128.nk = 4 := rfl
@[simp] theorem nk_k192 : KeyWidth.k192.nk = 6 := rfl
@[simp] theorem nk_k256 : KeyWidth.k256.nk = 8 := rfl
@[simp] theorem nk_k512 : KeyWidth.k512.nk = 16 := rfl

theorem nk_pos (w : KeyWidth) : 0 < w.nk := by cases w <;> decide

theorem nk_le_rkWords (w : KeyWidth) : w.nk ≤ w.rkWords := by cases w <;> decide

theorem nk_le_sixteen (w : KeyWidth) : w.nk ≤ 16 := by cases w <;> decide

namespace Machine

/-- The expansion appends as many words as asked. -/
theorem length_expandWords (nk n : Nat) (ws : List Word) : (expandWords nk n ws).length = ws.length + n := by
  induction n generalizing ws with
  | zero => rfl
  | succ n ih => rw [expandWords, ih]; simp; omega

/-- The expansion keeps the words there are. -/
theorem getD_expandWords_old (nk n : Nat) (ws : List Word) {i : Nat} (hi : i < ws.length) :
    (expandWords nk n ws).getD i 0 = ws.getD i 0 := by
  induction n generalizing ws with
  | zero => rfl
  | succ n ih =>
    rw [expandWords, ih _ (by simp; omega)]
    simp [List.getD, List.getElem?_append_left hi]

/-- The first word the expansion appends. -/
theorem getD_expandWords_next (nk n : Nat) (ws : List Word) :
    (expandWords nk (n + 1) ws).getD ws.length 0 = nextWord nk ws := by
  rw [expandWords, getD_expandWords_old _ _ _ (by simp)]
  simp [List.getD]

/-- A round key of the expansion is a packed quadruple of words. -/
theorem getD_keyExpand (w : KeyWidth) (key : KeyString) {r : Nat} (hr : r < w.roundKeys) :
    (keyExpand w key).getD r 0 = packRoundKey (scheduleWords w key) r := by
  simp [keyExpand, List.getD, hr]

/-- There are `Nr + 1` round keys. -/
theorem length_keyExpand (w : KeyWidth) (key : KeyString) : (keyExpand w key).length = w.roundKeys := by
  simp [keyExpand]

end Machine

end Sys2Proof
end

