-- ==== Sys2Proof/Laws/PerInstr.lean ====
section
/-! SUPPORT. Facts about every command as syntax, one lemma per constructor: its word carries its opcode in [7:0] and
zeros in the bits its format reserves (spec/30_encoding.md rule R81). -/

namespace Sys2Proof.Laws

namespace EncodesItsFormat

/-- The word of `i` has its opcode in `OP` and no reserved bit set. -/
def Statement (i : Instr) : Prop := opField (encode i) = opcode i ∧ reservedClear (format i) (encode i) = true

theorem keyexp (ksz : BitVec 2) : Statement (.keyexp ksz) := by unfold Statement; revert ksz; decide
theorem zeroize : Statement .zeroize := by unfold Statement; decide
theorem encb : Statement .encb := by unfold Statement; decide
theorem hgen : Statement .hgen := by unfold Statement; decide
theorem gmul : Statement .gmul := by unfold Statement; decide
theorem ghinit : Statement .ghinit := by unfold Statement; decide
theorem ghash (len : BitVec 5) : Statement (.ghash len) := by unfold Statement; revert len; decide
theorem ctrx (len : BitVec 5) : Statement (.ctrx len) := by unfold Statement; revert len; decide
theorem ctrinc : Statement .ctrinc := by unfold Statement; decide

end EncodesItsFormat

end Sys2Proof.Laws
end

