-- ==== Sys2Proof/Laws/Window.lean ====
section
/-! SUPPORT. The register map, both ways: the register at each offset, and the one offset of each register. -/

namespace Sys2Proof.Machine

/-- Every register but the reserved ones stands at its offset. -/
theorem regAt_offset (r : Reg) : regAt r.offset = r := by
  cases r with
  | key j => revert j; decide
  | din j => revert j; decide
  | dout j => revert j; decide
  | h j => revert j; decide
  | s j => revert j; decide
  | ctr j => revert j; decide
  | _ => decide

/-- A register's offset is a multiple of 4. -/
theorem offset_aligned (r : Reg) : r.offset.toNat % 4 = 0 := by
  cases r with
  | key j => revert j; decide
  | din j => revert j; decide
  | dout j => revert j; decide
  | h j => revert j; decide
  | s j => revert j; decide
  | ctr j => revert j; decide
  | _ => decide

/-- An aligned offset is the offset of the register at it, or reserved. -/
theorem offset_regAt : ∀ off : BitVec 8, off.toNat % 4 = 0 → regAt off = .reserved ∨ off = (regAt off).offset := by
  decide

/-- Only 0x08 is CMD. -/
theorem regAt_eq_cmd {off : BitVec 8} : regAt off = .cmd ↔ off = 0x08 := by
  revert off; decide

/-- An aligned write is `wr` of the register at its offset, where that is not reserved. -/
theorem request_eq_wr {r : Request} (ha : r.aligned = true) (hw : r.write = true) (hr : regAt r.addr ≠ .reserved) :
    HostEvent.request r = wr (regAt r.addr) r.wdata := by
  obtain ⟨w, a, z, d⟩ := r
  simp only [Request.aligned, Bool.and_eq_true, beq_iff_eq] at ha hw hr ⊢
  subst hw
  have ho := (offset_regAt a ha.2).resolve_left hr
  rw [wr, ← ho, ha.1]

/-- The write of a register's word, taken as the next event. -/
theorem step_wr {st : State} {r : Reg} {v : Word} {es : List HostEvent} (hp : st.pending = wr r v :: es)
    (hr : r ≠ .cmd) : step st = .next ((writeReg (st.setPending es) v r).setRsp (some ⟨0, false⟩)) := by
  rw [step_event hp]
  simp [wr, takeEvent, transaction, Request.aligned, offset_aligned, busWrite, regAt_offset, hr, respond]

/-- The issue of a command, taken as the next event. -/
theorem step_issue {st : State} {i : Instr} {es : List HostEvent} (hp : st.pending = issue i :: es) :
    step st = respond ⟨0, false⟩ (command (encode i) (st.setPending es)) := by
  rw [step_event hp]
  simp [issue, wr, Reg.offset, takeEvent, transaction, Request.aligned, busWrite, show regAt 8#8 = Reg.cmd from rfl]

/-- An aligned write to CMD is `cmdWrite` of its word. -/
theorem request_eq_cmdWrite {r : Request} (ha : r.aligned = true) (hw : r.write = true) (hr : regAt r.addr = .cmd) :
    HostEvent.request r = cmdWrite r.wdata := by
  rw [request_eq_wr ha hw (by rw [hr]; decide), hr]
  rfl

/-- Everything a step can do, down to the register written or the command run: wait; be reset; answer a bus error or a
read, changing no register; run a command; write a register other than CMD. -/
theorem step_window_cases {st t : State} (h : step st = .next t) :
    (st.pending = [] ∧ t = st.setRsp none) ∨
    (∃ r es, st.pending = .reset r :: es ∧ t = (st.setPending es).applyReset) ∨
    (∃ q es a, st.pending = .request q :: es ∧ (q.aligned = false ∨ q.write = false) ∧
      t = (st.setPending es).setRsp (some a)) ∨
    (∃ w es u, st.pending = cmdWrite w :: es ∧ command w (st.setPending es) = .next u ∧
      t = u.setRsp (some ⟨0, false⟩)) ∨
    (∃ q es, st.pending = .request q :: es ∧ q.aligned = true ∧ q.write = true ∧ regAt q.addr ≠ .cmd ∧
      t = (writeReg (st.setPending es) q.wdata (regAt q.addr)).setRsp (some ⟨0, false⟩)) := by
  rcases step_cases h with h | ⟨q, es, hp, ht⟩ | h
  · exact .inl h
  · rcases transaction_cases ht with ⟨ha, ht⟩ | ⟨_, hw, ht⟩ | ⟨ha, hw, u, hu, ht⟩
    · exact .inr (.inr (.inl ⟨q, es, _, hp, .inl ha, ht⟩))
    · exact .inr (.inr (.inl ⟨q, es, _, hp, .inr hw, ht⟩))
    · rcases busWrite_cases hu with ⟨hr, hu⟩ | ⟨hr, rfl⟩
      · rw [request_eq_cmdWrite ha hw hr] at hp
        exact .inr (.inr (.inr (.inl ⟨_, es, u, hp, hu, ht⟩)))
      · exact .inr (.inr (.inr (.inr ⟨q, es, hp, ha, hw, hr, ht⟩)))
  · exact .inr (.inl h)

end Sys2Proof.Machine
end

