-- ==== Sys2Proof/Tests/Slice0.lean ====
section
/-! SUPPORT. Small checks of the model against spec/95_test_vectors.md and spec/30_encoding.md, and a witness for every
statement that has hypotheses. Each expected value is the spec's. -/

namespace Sys2Proof.Tests

open Sys2Proof.Machine

/-- Whether the outcome is a next state of which `p` holds. -/
def nextIs (o : Host.Outcome State Fault Refusal) (p : State → Bool) : Bool :=
  match o with
  | .next t => p t
  | .fault _ => false
  | .refused _ => false

/-- A build just reset, with the event `e` first and ClearError after it. -/
def before (kw : KeyWidth) (e : HostEvent) : State := (State.resetOf kw).setPending (e :: clrErr)

/-- The 128-bit build with the sequential key expanded (program P1). -/
def ready : State :=
  let key : KeyString := (0x000102030405060708090a0b0c0d0e0f : Block) ++ (0 : BitVec 384)
  ((State.resetOf .k128).setKey key).setSchedule (keyExpand .k128 key)

/-- A state with a recorded NOKEY error. -/
def stopped : State := (State.resetOf .k128).raiseCmdError .noKey 0x00001040

/-! ## Well-formedness: an ill-formed term for each check -/

theorem test_wellFormed_refuses_ghash_zero : wellFormed (.ghash 0) = false := by decide
theorem test_wellFormed_refuses_ghash_17 : wellFormed (.ghash 17) = false := by decide
theorem test_wellFormed_refuses_ctrx_zero : wellFormed (.ctrx 0) = false := by decide
theorem test_wellFormed_refuses_ctrx_31 : wellFormed (.ctrx 31) = false := by decide
theorem test_wellFormed_takes_one_and_16 : wellFormed (.ghash 1) && wellFormed (.ctrx 16) = true := by decide
theorem test_legalFor_refuses_other_width : legalFor .k128 (.keyexp 3) = false := by decide

/-! ## Decoding: words written out from R85 and R88 -/

theorem test_decode_keyexp : decode 0b00000000000000000000001100000001 = .ok (.keyexp 3) := by rfl
theorem test_decode_zeroize : decode 0b00000000000000000000000000000010 = .ok .zeroize := by rfl
theorem test_decode_encb : decode 0b00000000000000000000000000010000 = .ok .encb := by rfl
theorem test_decode_hgen : decode 0b00000000000000000000000000010001 = .ok .hgen := by rfl
theorem test_decode_gmul : decode 0b00000000000000000000000000100000 = .ok .gmul := by rfl
theorem test_decode_ghinit : decode 0b00000000000000000000000000110000 = .ok .ghinit := by rfl
theorem test_decode_ghash : decode 0b00000000000000000000010000110001 = .ok (.ghash 4) := by rfl
theorem test_decode_ctrx : decode 0b00000000000000000000110001000000 = .ok (.ctrx 12) := by rfl
theorem test_decode_ctrinc : decode 0b00000000000000000000000001000001 = .ok .ctrinc := by rfl
theorem test_decode_zero_illegal : decode 0x00000000 = .error .illegalOp := by rfl
theorem test_decode_illegal_beats_reserved : decode 0x80000012 = .error .illegalOp := by rfl
theorem test_decode_ghash_bit13 : decode 0x00002031 = .error .rsvdBits := by rfl
theorem test_decode_keyexp_bit10 : decode 0x00000401 = .error .rsvdBits := by rfl
theorem test_decode_near_zeroize : decode 0x00000102 = .error .rsvdBits := by rfl
/-- By R183's pseudocode and the like word of spec/95_test_vectors.md, not by R183's example (assumption log 17). -/
theorem test_ctrx_bit13_is_reserved :
    nextIs (command 0x00002040 State.reset) (fun t => t.statusWord == 0x22 && t.errcmd == 0x2040) = true := by decide
theorem test_decodeTableWord_ctrx : decodeTableWord 32 0x00001040 = some (.ctrx 16) := by decide

/-! ## Vectors of section 2, one step each -/

theorem test_sbox_checks : sbox 0x00 = 0x63 ∧ sbox 0x53 = 0xED ∧ sbox 0x8d = 0x5d ∧ sbox 0xFF = 0x16 := by decide
theorem test_xtime_checks : xtime 0x57 = 0xAE ∧ xtime 0x80 = 0x1B ∧ xtime 0xFF = 0xE5 := by decide
theorem test_gf8mul_checks : gf8mul 0x57 0x83 = 0xC1 ∧ gf8mul 0x57 0x13 = 0xFE := by decide
theorem test_mixColumns : mixColumns 0xdb135345f20a225c01010101c6c6c6c6 = 0x8e4da1bc9fdc589d01010101c6c6c6c6 := by decide
theorem test_keyexp_192_last :
    (keyExpand .k192 ((0x000102030405060708090a0b0c0d0e0f1011121314151617 : BitVec 192) ++ (0 : BitVec 320))).getD 12 0
      = 0xa4970a331a78dc09c418c271e3a41d5d := by decide +kernel
theorem test_keyexp_512_zero_last : (keyExpand .k512 0).getD 22 0 = 0xc74052f0ad8d8e7ffb3128ca468a82d4 := by
  decide +kernel
theorem test_keyexp_needs_build_width :
    nextIs (exec (.keyexp 3) ready) (fun t => t.statusWord == 0x43 && t.errcmd == 0x301) = true := by decide +kernel
theorem test_encb_fips :
    nextIs (exec .encb (ready.setDin 0x00112233445566778899aabbccddeeff))
      (fun t => t.dout == 0x69c4e0d86a7b0430d8cdb78070b4c55a) = true := by decide +kernel
theorem test_encb_512_zero : cipher 22 (keyExpand .k512 0) 0 = 0x0c4f8d1851b19ca5e88d9da9c5db9e9c := by decide +kernel
theorem test_hgen : nextIs (exec .hgen ready) (fun t => t.h == 0xc6a13b37878f5b826f4f8162a1c8d879) = true := by
  decide +kernel
theorem test_gmul_x_times_x127 :
    nextIs (exec .gmul (((State.resetOf .k128).setDin 0x40000000000000000000000000000000).setH 1))
      (fun t => t.dout == 0xe1000000000000000000000000000000) = true := by decide +kernel
theorem test_gmul_tc2 :
    gmul 0x0388dace60b6a392f328c2b971b2fe78 0x66e94bd4ef8a2c3b884cfa59ca342b2e = 0x5e2ec746917062882c85b0685353deb7 := by
  decide +kernel
theorem test_ghash_partial :
    nextIs (exec (.ghash 4) ((((State.resetOf .k128).setH 0xb83b533708bf535d0aa6e52980d53b78).setS
      0xed56aaf8a72d67049fdb9228edba1322).setDin 0xabaddad2111111111111111111111111))
      (fun t => t.s == 0xcd47221ccef0554ee4bb044c88150352) = true := by decide +kernel
theorem test_ctrx_partial_512 :
    nextIs (exec (.ctrx 1) ((State.resetOf .k512).setSchedule (keyExpand .k512 0)))
      (fun t => t.dout == 0x0c000000000000000000000000000000 && t.ctr == 1) = true := by decide +kernel
theorem test_ctrx_bad_len_beats_no_key :
    nextIs (exec (.ctrx 0) State.reset) (fun t => t.statusWord == 0x32 && t.errcmd == 0x40) = true := by decide
theorem test_ctrinc_wraps :
    nextIs (exec .ctrinc ((State.resetOf .k128).setCtr 0xcafebabefacedbaddecaf888ffffffff))
      (fun t => t.ctr == 0xcafebabefacedbaddecaf88800000000) = true := by decide
theorem test_ghinit : nextIs (exec .ghinit ((State.resetOf .k128).setS 5)) (fun t => t.s == 0) = true := by decide
theorem test_zeroize_while_stopped :
    nextIs (exec .zeroize (stopped.setS 0xAA)) (fun t => t.s == 0 && t.statusWord == 0x52 && t.errcmd == 0x1040) = true := by
  decide
theorem test_step_keyexp_from_reset :
    nextIs (step (State.reset.withFetchWord 32 0x00000001)) (fun t => t.statusWord == 1 && t.rsp == some ⟨0, false⟩) =
      true := by decide +kernel
theorem test_step_narrow_cmd_write :
    nextIs (step (before .k128 (.request ⟨true, 0x08, 0, 0x01⟩)))
      (fun t => t.rsp == some ⟨0, true⟩ && t.statusWord == 0) = true := by decide
theorem test_step_read_cfg :
    nextIs (step (before .k512 (rd .cfg))) (fun t => t.rsp == some ⟨0x00161003, false⟩) = true := by decide
theorem test_step_clear_error :
    nextIs (step (stopped.setPending clrErr)) (fun t => t.statusWord == 0 && t.errcmd == 0) = true := by decide

/-! ## Witnesses: for every statement with hypotheses, a state and operands that meet them, clause by clause -/

theorem witness_EncodeOfDecodeIsTheWord : decode 0x00001F31 = .ok (.ghash 31) := by rfl
theorem witness_StepRunsTheDecodedCommand :
    (before .k128 (cmdWrite 0x10)).pending = cmdWrite 0x10 :: clrErr ∧ decode 0x10 = .ok .encb ∧
      decodeTableWord 32 0x10 = some .encb := ⟨rfl, rfl, by decide⟩
theorem witness_IllegalWordIsRecordedOrDiscarded :
    (before .k128 (cmdWrite 0)).pending = cmdWrite 0 :: clrErr ∧ decode 0 = .error .illegalOp ∧
      (before .k128 (cmdWrite 0)).err = false ∧ (stopped.setPending (cmdWrite 0x102 :: [])).err = true ∧
      decode 0x102 = .error .rsvdBits := ⟨rfl, rfl, rfl, rfl, rfl⟩
theorem witness_IdleBlockHoldsItsState : State.reset.pending = [] := by rfl
theorem witness_KeyexpExpandsTheKey :
    State.reset.err = false ∧ (0 : BitVec 2) = (State.resetOf .k128).keyw.ksz ∧
      (3 : BitVec 2) = (State.resetOf .k512).keyw.ksz ∧ (1 : BitVec 2) ≠ (State.resetOf .k128).keyw.ksz := by decide
theorem witness_KeyedCommandsComplete : ready.err = false ∧ ready.kvalid = true := ⟨rfl, rfl⟩
theorem witness_UnkeyedCommandsCompleteAndKeyedAreRejected : State.reset.err = false ∧ State.reset.kvalid = false :=
  ⟨rfl, rfl⟩
theorem witness_LenClauses :
    (1 ≤ (1 : BitVec 5).toNat ∧ (1 : BitVec 5).toNat ≤ 16) ∧ (1 ≤ (16 : BitVec 5).toNat ∧ (16 : BitVec 5).toNat ≤ 16) ∧
      (0 : BitVec 5).toNat = 0 ∧ 16 < (17 : BitVec 5).toNat ∧ 16 < (31 : BitVec 5).toNat := by decide
theorem witness_RejectionOnlyRecordsTheError :
    State.reset.err = false ∧ ∃ t, command 0x10 State.reset = .next t ∧ t.err = true := ⟨rfl, _, rfl, rfl⟩
theorem witness_ChecksFailInTheSpecsOrder :
    firstFailingCheck .k128 true 0x80000012 = some .illegalOp ∧ firstFailingCheck .k128 false 0x00002031 = some .rsvdBits ∧
      firstFailingCheck .k128 false 0x00000040 = some .badLen ∧ firstFailingCheck .k128 false 0x00000301 = some .keySize ∧
      firstFailingCheck .k128 false 0x00001040 = some .noKey ∧ firstFailingCheck .k128 true 0x00001040 = none := by decide
theorem witness_FailStopDiscardsUntilCleared :
    stopped.err = true ∧ (0x30 : Word) ≠ 0x00000002 ∧
      (∃ t, step (stopped.setPending clrErr) = .next t ∧ t.err = false) ∧
      (∃ t, step (stopped.setPending [.reset none]) = .next t ∧ t.err = false) ∧
      (∃ t, step (stopped.setPending [issue .zeroize]) = .next t ∧ t.err = true) :=
  ⟨rfl, by decide, ⟨_, rfl, rfl⟩, ⟨_, rfl, rfl⟩, ⟨_, rfl, rfl⟩⟩
theorem witness_FailStopStillReadsAndWrites :
    stopped.err = true ∧ (0x10 : BitVec 8).toNat % 4 = 0 ∧ (0xB0 : BitVec 8) ≠ 0x08 := by decide
theorem witness_UnassignedAndReservedWordsAreIllegal :
    State.reset.err = false ∧ decode 0x80000012 = .error .illegalOp ∧ decode 0x00002040 = .error .rsvdBits :=
  ⟨rfl, rfl, rfl⟩
theorem witness_ZeroizeErasesAllButTheErrorRecord :
    (0x00000102 : Word) &&& 0xFF = 0x02 ∧ (0x00000102 : Word) ≠ 0x00000002 ∧ State.reset.err = false ∧
      stopped.err = true := by decide
theorem witness_ClearErrorClearsTheRecordAlone :
    (2 : Word).getLsbD 1 = true ∧ (State.reset.errRecordSound ∧ State.reset.err = false) ∧
      (0xFFFFFFFD : Word).getLsbD 1 = false :=
  ⟨rfl, ⟨⟨fun _ => ⟨rfl, rfl⟩, fun h => by cases h⟩, rfl⟩, by decide⟩
theorem witness_StepKeepsErrorRecordAndSchedule :
    (State.reset.withFetchWord 32 0x10).Inv ∧ ∃ t, step (State.reset.withFetchWord 32 0x10) = .next t ∧ t.err = true :=
  ⟨⟨⟨fun _ => ⟨rfl, rfl⟩, (fun h => by cases h)⟩, ⟨rfl, (fun h => by cases h), fun _ => rfl⟩⟩, _, rfl, rfl⟩
theorem witness_IdAndCfgAreConstant :
    (State.resetOf .k128).keyw = .k128 ∧ (State.resetOf .k192).keyw = .k192 ∧ (State.resetOf .k256).keyw = .k256 ∧
      (State.resetOf .k512).keyw = .k512 ∧ ∃ t, step (before .k512 (issue .encb)) = .next t :=
  ⟨rfl, rfl, rfl, rfl, _, rfl⟩
theorem witness_ScheduleChangesOnlyByKeyexpZeroizeReset :
    ∃ t, step (before .k128 (issue (.keyexp 0))) = .next t ∧ t.kvalid = true := ⟨_, rfl, rfl⟩
theorem witness_KeyChangesOnlyByHostZeroizeReset :
    (before .k128 (wr (.key 15) 7)).nextIsWrite (.key 15) ∧ (before .k128 (wr (.key 0) 7)).nextIsWrite (.key 0) ∧
      ∃ t, step (before .k128 (wr (.key 15) 7)) = .next t ∧ t.key = 7 :=
  ⟨⟨_, _, rfl⟩, ⟨_, _, rfl⟩, _, rfl, by decide +kernel⟩
theorem witness_DataRegistersHaveOnlyTheirWriters : ∃ t, step (before .k128 (issue .ctrinc)) = .next t ∧ t.ctr = 1 :=
  ⟨_, rfl, by decide⟩
theorem witness_BusReadFollowsTheTable :
    (0xCC : BitVec 8).toNat % 4 = 0 ∧ 0x14 ≤ (0x14 : BitVec 8).toNat ∧ (0x3C : BitVec 8).toNat ≤ 0x3C ∧
      0xD0 ≤ (0xD0 : BitVec 8).toNat ∧ (0xFC : BitVec 8).toNat ≤ 0xFC := by decide
theorem witness_BusWriteFollowsTheTable :
    (0x7C : BitVec 8).toNat % 4 = 0 ∧ (0x0C : BitVec 8).toNat % 4 = 0 ∧ (0xFC : BitVec 8).toNat % 4 = 0 ∧
      0x14 ≤ (0x14 : BitVec 8).toNat ∧ (0x3C : BitVec 8).toNat ≤ 0x3C ∧ 0xD0 ≤ (0xD0 : BitVec 8).toNat := by decide
theorem witness_ReadSeesTheLastWrite :
    ((0x80 : BitVec 8).toNat % 4 = 0 ∧ (0x80 : BitVec 8) ≠ 0x08 ∧ (0x80 : BitVec 8) ≠ 0x0C) ∧
      (∃ t, busWrite 0x80 7 State.reset = .next t ∧ busRead 0x80 t = 7) ∧
      (∃ t, busWrite 0xCC 7 State.reset = .next t ∧ busRead 0xCC t = 7) ∧
      (∃ t, busWrite 0xA0 7 State.reset = .next t ∧ busRead 0xA0 t = 0) ∧
      (∃ t, busWrite 0xB0 7 State.reset = .next t ∧ busRead 0x8C t = busRead 0x8C State.reset) :=
  ⟨by decide, ⟨_, rfl, by decide⟩, ⟨_, rfl, by decide⟩, ⟨_, rfl, by decide⟩, ⟨_, rfl, by decide⟩⟩
theorem witness_BusErrorChangesNothing :
    (0 : BitVec 2) ≠ 2 ∧ (3 : BitVec 2) ≠ 2 ∧ (0x09 : BitVec 8).toNat % 4 ≠ 0 := by decide
theorem witness_RkShowsOnlyThroughEncbHgenCtrx :
    sameButRk (before .k128 (rd .status)) { before .k128 (rd .status) with rk := [1] } ∧
      (∀ i, ¬ (before .k128 (rd .status)).nextIsCommand i) ∧ (∀ w, rd .status ≠ cmdWrite w) ∧
      ∃ t, step (before .k128 (rd .status)) = .next t :=
  ⟨⟨_, rfl⟩, (fun _ => by rintro ⟨_, h⟩; cases h), (fun _ => by intro h; cases h), _, rfl⟩
theorem witness_SecretsLeaveOnlyThroughCipherAndHashResults :
    sameButSecrets (before .k128 (rd .status)) { before .k128 (rd .status) with key := 1, rk := [1], h := 1 } ∧
      (∀ i, ¬ (before .k128 (rd .status)).nextIsCommand i) ∧ ∃ t, step (before .k128 (rd .status)) = .next t :=
  ⟨⟨_, _, _, rfl⟩, (fun _ => by rintro ⟨_, h⟩; cases h), _, rfl⟩
theorem witness_KeyScheduleFollowsTheRecurrence :
    (0 < KeyWidth.k128.nk ∧ KeyWidth.k128.nk ≤ 4 ∧ 43 < 4 * (KeyWidth.k128.nr + 1) ∧ 0 ≤ KeyWidth.k128.nr) ∧
      (KeyWidth.k512.nk ≤ 16 ∧ 91 < 4 * (KeyWidth.k512.nr + 1)) := by decide
theorem witness_KeyBytesPastTheWidthAreNeverRead :
    (∀ j < State.reset.keyw.nk, be32 (1 : KeyString) j = be32 State.reset.key j) ∧
      (1 : KeyString) ≠ State.reset.key ∧ ∃ t, exec (.keyexp 0) State.reset = .next t :=
  ⟨by decide +kernel, by decide +kernel, _, rfl⟩
theorem witness_RoundStepsActByteByByte :
    byteAt (0xdb135345f20a225c01010101c6c6c6c6 : Block) (4 * 0) = 0xdb ∧
      byteAt (0xdb135345f20a225c01010101c6c6c6c6 : Block) (4 * 0 + 1) = 0x13 ∧
      byteAt (0xdb135345f20a225c01010101c6c6c6c6 : Block) (4 * 0 + 2) = 0x53 ∧
      byteAt (0xdb135345f20a225c01010101c6c6c6c6 : Block) (4 * 0 + 3) = 0x45 := by decide
theorem witness_SboxIsAffineOfInverse : (0x53 : Byte) ≠ 0 := by decide
theorem witness_BlockShiftCarriesAcrossBytes : 1 ≤ 1 ∧ 15 < 16 := by decide
theorem witness_GhashIgnoresBytesPastLen :
    State.reset.err = false ∧ legalLen 15 = true ∧
      (∀ k < (15 : BitVec 5).toNat, byteAt (0xFF : Block) k = byteAt State.reset.din k) ∧ (0xFF : Block) ≠ State.reset.din :=
  by decide
theorem witness_GhashbufComputesTheSourcesGhash :
    0 < (chunks 17 (List.replicate 17 0)).length ∧ 1 + 1 = (chunks 17 (List.replicate 17 0)).length ∧
    (State.reset.setPending (ghashBuf [1, 2, 3] ++ clrErr)).err = false ∧
      (State.reset.setPending (ghashBuf [1, 2, 3] ++ clrErr)).pending = ghashBuf [1, 2, 3] ++ clrErr :=
  ⟨by decide, by decide, rfl, rfl⟩
theorem witness_CtrxRunUsesSuccessiveCounters :
    ready.err = false ∧ ready.kvalid = true ∧ (∀ l ∈ [(16 : BitVec 5), 1], legalLen l = true) ∧ legalLen 12 = true :=
  ⟨rfl, rfl, by decide, by decide⟩
theorem witness_CtrbufXorsWithSuccessiveKeystreamBlocks :
    let s := ready.setPending (ctrBuf (List.replicate 17 1) ++ clrErr)
    s.err = false ∧ s.kvalid = true ∧ s.pending = ctrBuf (List.replicate 17 1) ++ clrErr ∧
      16 * 0 < (List.replicate 17 (1 : Byte)).length ∧ 16 * 1 < (List.replicate 17 (1 : Byte)).length :=
  ⟨rfl, rfl, rfl, by decide, by decide⟩
theorem witness_CtrxUndoesItself : ready.err = false ∧ ready.kvalid = true ∧ legalLen 1 = true ∧ legalLen 16 = true :=
  ⟨rfl, rfl, by decide, by decide⟩
theorem witness_Ld16LoadsTheBlock :
    (State.reset.setPending (ld16 .din 7 ++ [])).pending = ld16 .din 7 ++ [] ∧
      (State.reset.setPending (ld16 .h 7 ++ [])).pending = ld16 .h 7 ++ [] ∧
      (State.reset.setPending (ld16 .s 7 ++ [])).pending = ld16 .s 7 ++ [] ∧
      (State.reset.setPending (ld16 .ctr 7 ++ [])).pending = ld16 .ctr 7 ++ [] := ⟨rfl, rfl, rfl, rfl⟩

end Sys2Proof.Tests
end

section
/-! PROOFS. A block as an element of GF(2)[x] / (x^128 + x^7 + x^2 + x + 1) (spec/42_gf128.md rule R152): XOR is the
sum, the multiplier's shift is the product by `x`, and so the multiply loop is the product. -/

namespace Sys2Proof.Machine

open Polynomial

/-! ## Bits in the GCM order -/

theorem gcmBit_xor (a b : Block) {i : Nat} (hi : i < 128) : gcmBit (a ^^^ b) i = (gcmBit a i ^^ gcmBit b i) := by
  simp [gcmBit_eq_getMsbD, hi]

theorem gcmBit_shiftRight_zero (v : Block) : gcmBit (v >>> 1) 0 = false := by
  simp [gcmBit_eq_getMsbD]

theorem gcmBit_shiftRight_succ (v : Block) {i : Nat} (hi : i < 127) : gcmBit (v >>> 1) (i + 1) = gcmBit v i := by
  have hsucc : i + 1 < 128 := by omega
  simp [gcmBit_eq_getMsbD, Nat.lt_of_succ_lt hsucc, hsucc]

/-- The bit that the shift drops is the coefficient of `x^127`. -/
theorem gcmBit_127 (v : Block) : gcmBit v 127 = v.getLsbD 0 := by
  simp [gcmBit_eq_getMsbD, BitVec.getMsbD]

/-- 0xE1 in byte 0 sets bits 0, 1, 2 and 7. -/
theorem gcmBit_gcmFeedback : ∀ i < 128, gcmBit gcmFeedback i = decide (i ∈ ({0, 1, 2, 7} : Finset Nat)) := by
  decide

/-! ## The polynomial of a block -/

/-- The terms below `x^n` of a block's polynomial (R152); the whole polynomial at `n = 128`. -/
noncomputable def bitsPoly (n : Nat) (a : Block) : (ZMod 2)[X] :=
  ∑ i ∈ Finset.range n, if gcmBit a i then X ^ i else 0

@[simp] theorem bitsPoly_zero_terms (a : Block) : bitsPoly 0 a = 0 := rfl

theorem bitsPoly_succ (n : Nat) (a : Block) :
    bitsPoly (n + 1) a = bitsPoly n a + if gcmBit a n then X ^ n else 0 := Finset.sum_range_succ _ n

theorem bitsPoly_zero_block : bitsPoly 128 0#128 = 0 :=
  Finset.sum_eq_zero fun i hi => by simp [gcmBit_eq_getMsbD, Finset.mem_range.1 hi]

/-- XOR adds the polynomials: the characteristic is 2. -/
theorem bitsPoly_xor (a b : Block) : bitsPoly 128 (a ^^^ b) = bitsPoly 128 a + bitsPoly 128 b := by
  simp only [bitsPoly, ← Finset.sum_add_distrib]
  refine Finset.sum_congr rfl fun i hi => ?_
  rw [gcmBit_xor a b (Finset.mem_range.1 hi)]
  cases gcmBit a i <;> cases gcmBit b i <;> simp [CharTwo.add_self_eq_zero]

/-- The feedback is what the reduction polynomial adds to `x^128` (R152). -/
theorem bitsPoly_gcmFeedback : bitsPoly 128 gcmFeedback = X ^ 7 + X ^ 2 + X + 1 := by
  have hbits : bitsPoly 128 gcmFeedback = ∑ i ∈ Finset.range 128, if i ∈ ({0, 1, 2, 7} : Finset Nat) then X ^ i else 0 :=
    Finset.sum_congr rfl fun i hi => by simp [gcmBit_gcmFeedback i (Finset.mem_range.1 hi)]
  have hsub : Finset.range 128 ∩ {0, 1, 2, 7} = {0, 1, 2, 7} := by decide
  rw [hbits, Finset.sum_ite_mem, hsub, Finset.sum_insert (by decide), Finset.sum_insert (by decide),
    Finset.sum_insert (by decide), Finset.sum_singleton]
  ring

/-- The right shift multiplies by `x` and drops the term in `x^128`. -/
theorem bitsPoly_shiftRight (v : Block) :
    X * bitsPoly 128 v = bitsPoly 128 (v >>> 1) + if v.getLsbD 0 then X ^ 128 else 0 := by
  have hshift : bitsPoly 128 (v >>> 1) = X * bitsPoly 127 v := by
    rw [bitsPoly, Finset.sum_range_succ', gcmBit_shiftRight_zero, bitsPoly, Finset.mul_sum]
    simp only [Bool.false_eq_true, if_false, add_zero]
    refine Finset.sum_congr rfl fun i hi => ?_
    rw [gcmBit_shiftRight_succ v (Finset.mem_range.1 hi), mul_ite, mul_zero, pow_succ']
  rw [hshift, bitsPoly_succ 127 v, gcmBit_127, mul_add, mul_ite, mul_zero, ← pow_succ']

/-! ## The field element of a block -/

/-- The reduction polynomial of R150. -/
noncomputable def gcmModulus : (ZMod 2)[X] := X ^ 128 + X ^ 7 + X ^ 2 + X + 1

/-- A block's polynomial modulo the reduction polynomial. -/
noncomputable def gfElement (a : Block) : AdjoinRoot gcmModulus := AdjoinRoot.mk gcmModulus (bitsPoly 128 a)

theorem gfElement_zero : gfElement 0#128 = 0 := by rw [gfElement, bitsPoly_zero_block, map_zero]

theorem gfElement_xor (a b : Block) : gfElement (a ^^^ b) = gfElement a + gfElement b := by
  rw [gfElement, bitsPoly_xor, map_add]; rfl

/-- The feedback is `x^128` reduced (R152). -/
theorem gfElement_gcmFeedback : gfElement gcmFeedback = AdjoinRoot.mk gcmModulus (X ^ 128) := by
  have hsum : gcmModulus = bitsPoly 128 gcmFeedback + X ^ 128 := by
    rw [bitsPoly_gcmFeedback]
    unfold gcmModulus
    ring
  rw [gfElement, AdjoinRoot.mk_eq_mk, CharTwo.sub_eq_add, ← hsum]

/-- `V` after one iteration is `x · V` in the field: the feedback makes up for the dropped `x^128` (R152). -/
theorem gfElement_gmulShift (v : Block) :
    gfElement (gmulShift v) = AdjoinRoot.root gcmModulus * gfElement v := by
  have hx : AdjoinRoot.root gcmModulus * gfElement v = AdjoinRoot.mk gcmModulus (X * bitsPoly 128 v) := by
    rw [map_mul, AdjoinRoot.mk_X]; rfl
  rw [hx, bitsPoly_shiftRight, map_add, gmulShift, gfElement_xor]
  refine congrArg (gfElement (v >>> 1) + ·) ?_
  cases v.getLsbD 0 with
  | false => simpa using gfElement_zero
  | true => simpa using gfElement_gcmFeedback

/-! ## The multiply loop -/

/-- `(Z, V)` after the first `n` iterations of the loop (R150). -/
def gmulLoop (x y : Block) (n : Nat) : Block × Block := (List.range n).foldl (gmulStep x) (0, y)

theorem gmul_eq_gmulLoop (x y : Block) : gmul x y = (gmulLoop x y 128).1 := rfl

theorem gmulLoop_succ (x y : Block) (n : Nat) : gmulLoop x y (n + 1) = gmulStep x (gmulLoop x y n) n := by
  rw [gmulLoop, List.range_succ, List.foldl_append]; rfl

/-- `V` after `n` iterations is `x^n · Y`. -/
theorem gfElement_gmulLoop_snd (x y : Block) (n : Nat) :
    gfElement (gmulLoop x y n).2 = AdjoinRoot.root gcmModulus ^ n * gfElement y := by
  induction n with
  | zero => rw [pow_zero, one_mul]; rfl
  | succ n ih => rw [gmulLoop_succ, gmulStep, gfElement_gmulShift, ih, pow_succ', mul_assoc]

/-- `Z` after `n` iterations is the product of `Y` by the first `n` terms of `X`. -/
theorem gfElement_gmulLoop_fst (x y : Block) (n : Nat) :
    gfElement (gmulLoop x y n).1 = AdjoinRoot.mk gcmModulus (bitsPoly n x) * gfElement y := by
  induction n with
  | zero => rw [bitsPoly_zero_terms, map_zero, zero_mul]; exact gfElement_zero
  | succ n ih =>
    rw [gmulLoop_succ, gmulStep, bitsPoly_succ]
    cases gcmBit x n with
    | false => simpa using ih
    | true =>
      simp only [if_true]
      rw [gfElement_xor, ih, gfElement_gmulLoop_snd, map_add, map_pow, AdjoinRoot.mk_X, add_mul]

/-- gmul is the product of the field (R152, R153: fully reduced). -/
theorem gfElement_gmul (x y : Block) : gfElement (gmul x y) = gfElement x * gfElement y := by
  rw [gmul_eq_gmulLoop, gfElement_gmulLoop_fst]; rfl

/-- gmul is the product of the polynomials modulo the reduction polynomial. -/
theorem gcmModulus_dvd_gmul_sub_mul (x y : Block) :
    gcmModulus ∣ bitsPoly 128 (gmul x y) - bitsPoly 128 x * bitsPoly 128 y := by
  rw [← AdjoinRoot.mk_eq_mk, map_mul]
  exact gfElement_gmul x y

/-- Settles O46, by the loop's invariants: `V` is `x^n · Y` and `Z` the product of `Y` by the terms of `X` below `x^n`. -/
theorem gmulIsThePolynomialProduct : Obligations.GmulIsThePolynomialProduct := by
  unfold Obligations.GmulIsThePolynomialProduct
  intro x y poly
  have hdvd := gcmModulus_dvd_gmul_sub_mul x y
  unfold gcmModulus at hdvd
  exact hdvd

end Sys2Proof.Machine
end

section
/-! PROOFS. The word of a decoded command (spec/30_encoding.md rules R81, R86): the decoder drops no bit. -/

namespace Sys2Proof

/-- A word is its operand bits followed by its opcode. -/
theorem operand_append_opField (w : Word) : w.extractLsb' 8 24 ++ opField w = w := by
  have happend : w.extractLsb' 8 24 ++ w.extractLsb' 0 8 = w.extractLsb' 0 (24 + 8) :=
    BitVec.extractLsb'_append_extractLsb'_eq_extractLsb' (w := 32) (by decide)
  rw [opField, happend]
  exact BitVec.extractLsb'_eq_self

/-- With the bits above a field of `n` bits clear, the field is all of the operand bits. -/
theorem setWidth_field_of_high_clear {w : Word} {n : Nat} (h : w.extractLsb' (8 + n) (24 - n) = 0) :
    (w.extractLsb' 8 n).setWidth 24 = w.extractLsb' 8 24 := by
  refine BitVec.eq_of_getLsbD_eq fun i hi => ?_
  by_cases hin : i < n
  · simp [hi, hin]
  · have hbit := congrArg (·.getLsbD (i - n)) h
    have hpos : 8 + n + (i - n) = 8 + i := by omega
    have hlt : i - n < 24 - n := by omega
    have hclear : w.getLsbD (8 + i) = false := by simpa [hpos, hlt] using hbit
    simp [hi, hin, hclear]

/-- With its reserved bits clear, a selected word has the selected command's operand bits. -/
theorem operandBits_of_select {w : Word} {f : Format} {i : Instr} (h : select w = some (f, i))
    (hr : reservedClear f w = true) : operandBits i = w.extractLsb' 8 24 := by
  have hfield : ∀ n, (w.extractLsb' (8 + n) (24 - n) == 0) = true →
      (w.extractLsb' 8 n).setWidth 24 = w.extractLsb' 8 24 :=
    fun n hn => setWidth_field_of_high_clear (eq_of_beq hn)
  have hnone : reservedClear .n w = true → 0 = w.extractLsb' 8 24 := fun hn => (eq_of_beq hn).symm
  unfold select at h
  repeat' split at h
  all_goals cases h
  exacts [hfield 2 hr, hnone hr, hnone hr, hnone hr, hnone hr, hnone hr, hfield 5 hr, hfield 5 hr, hnone hr]

/-- The word that decodes to a command is the command's word. -/
theorem encode_of_decode {w : Word} {i : Instr} (h : decode w = .ok i) : encode i = w := by
  obtain ⟨hs, hr⟩ := decode_ok_iff.1 h
  rw [encode, operandBits_of_select hs hr, ← (select_some hs).1, operand_append_opField]

/-- The decoder rejects with ILLEGAL_OP and RSVD_BITS alone. -/
theorem decode_error {w : Word} {c : CmdError} (h : decode w = .error c) : c = .illegalOp ∨ c = .rsvdBits := by
  unfold decode at h
  split at h
  · cases h; exact .inl rfl
  · split at h <;> cases h
    exact .inr rfl

end Sys2Proof
end

section
/-! PROOFS. Every command as one check and one effect, and everything that a command word can do (spec/60_exceptions.md
rules R181 to R184). -/

namespace Sys2Proof.Machine

/-! ## Checks -/

theorem lenError_eq_some {len : BitVec 5} {c : CmdError} (h : lenError len = some c) :
    legalLen len = false ∧ c = .badLen := by
  cases hl : legalLen len with
  | true => rw [lenError_legal hl] at h; cases h
  | false => rw [lenError_illegal hl] at h; cases h; exact ⟨rfl, rfl⟩

theorem kszError_eq_some {ksz : BitVec 2} {st : State} {c : CmdError} (h : kszError ksz st = some c) :
    ksz ≠ st.keyw.ksz ∧ c = .keySize := by
  by_cases hk : ksz = st.keyw.ksz
  · rw [hk, kszError_match] at h; cases h
  · rw [kszError_mismatch hk] at h; cases h; exact ⟨hk, rfl⟩

theorem kszError_eq_none {ksz : BitVec 2} {st : State} (h : kszError ksz st = none) : ksz = st.keyw.ksz := by
  by_contra hk
  rw [kszError_mismatch hk] at h
  cases h

theorem keyError_eq_some {st : State} {c : CmdError} (h : keyError st = some c) : c = .noKey := by
  cases hk : st.kvalid with
  | true => rw [keyError_valid hk] at h; cases h
  | false => rw [keyError_invalid hk] at h; cases h; rfl

/-! ## Commands -/

/-- The first of a command's checks that fails (R183). -/
def commandCheck : Instr → State → Option CmdError
  | .keyexp ksz, st => kszError ksz st
  | .zeroize, _ => none
  | .encb, st => keyError st
  | .hgen, st => keyError st
  | .gmul, _ => none
  | .ghinit, _ => none
  | .ghash len, _ => lenError len
  | .ctrx len, st => (lenError len).or (keyError st)
  | .ctrinc, _ => none

/-- The state that a performed command leaves. -/
def commandEffect : Instr → State → State
  | .keyexp _, st => st.setSchedule (keyExpand st.keyw st.key)
  | .zeroize, st => st.zeroize
  | .encb, st => st.setDout (st.cipher st.din)
  | .hgen, st => st.setH (st.cipher 0)
  | .gmul, st => st.setDout (gmul st.din st.h)
  | .ghinit, st => st.setS 0
  | .ghash len, st => st.setS (absorb st.h st.s (padBlock (byteCount len) st.din))
  | .ctrx len, st => (st.setDout (xorPrefix (byteCount len) st.din (st.cipher st.ctr))).setCtr (inc32 st.ctr)
  | .ctrinc, st => st.setCtr (inc32 st.ctr)

/-- Which registers a command writes: the states that it may leave when the values it computes are left open. KEYEXP's
schedule and ZEROIZE's erasure are given in full. -/
inductive CommandWrites (st : State) : Instr → State → Prop
  | keyexp (ksz : BitVec 2) : CommandWrites st (.keyexp ksz) (st.setSchedule (keyExpand st.keyw st.key))
  | zeroize : CommandWrites st .zeroize st.zeroize
  | encb (dout : Block) : CommandWrites st .encb (st.setDout dout)
  | hgen (h : Block) : CommandWrites st .hgen (st.setH h)
  | gmul (dout : Block) : CommandWrites st .gmul (st.setDout dout)
  | ghinit (s : Block) : CommandWrites st .ghinit (st.setS s)
  | ghash (len : BitVec 5) (s : Block) : CommandWrites st (.ghash len) (st.setS s)
  | ctrx (len : BitVec 5) (dout ctr : Block) : CommandWrites st (.ctrx len) ((st.setDout dout).setCtr ctr)
  | ctrinc (ctr : Block) : CommandWrites st .ctrinc (st.setCtr ctr)

theorem commandEffect_writes (i : Instr) (st : State) : CommandWrites st i (commandEffect i st) := by
  cases i with
  | keyexp ksz => exact .keyexp ksz
  | zeroize => exact .zeroize
  | encb => exact .encb _
  | hgen => exact .hgen _
  | gmul => exact .gmul _
  | ghinit => exact .ghinit _
  | ghash len => exact .ghash len _
  | ctrx len => exact .ctrx len _ _
  | ctrinc => exact .ctrinc _

/-- Every command but ZEROIZE is `runCommand` of its check and its effect. -/
theorem exec_eq_runCommand {i : Instr} (hi : i ≠ .zeroize) (st : State) :
    exec i st = runCommand (encode i) (commandCheck i st) (commandEffect i st) st := by
  cases i with
  | zeroize => exact absurd rfl hi
  | keyexp ksz => exact exec_keyexp ksz st
  | encb => exact exec_encb st
  | hgen => exact exec_hgen st
  | gmul => exact exec_gmul st
  | ghinit => exact exec_ghinit st
  | ghash len => exact exec_ghash len st
  | ctrx len => exact exec_ctrx len st
  | ctrinc => exact exec_ctrinc st

/-- All that a command can do: be discarded, be rejected, or be performed. -/
theorem exec_cases {i : Instr} {st t : State} (h : exec i st = .next t) :
    (st.err = true ∧ t = st) ∨
    (st.err = false ∧ ∃ c, commandCheck i st = some c ∧ t = st.raiseCmdError c (encode i)) ∨
    ((i ≠ .zeroize → st.err = false) ∧ commandCheck i st = none ∧ t = commandEffect i st) := by
  by_cases hi : i = .zeroize
  · subst hi
    rw [exec_zeroize] at h
    cases h
    exact .inr (.inr ⟨fun hne => absurd rfl hne, rfl, rfl⟩)
  · rw [exec_eq_runCommand hi] at h
    exact (runCommand_cases h).imp_right (Or.imp_right fun ⟨he, hperf⟩ => ⟨fun _ => he, hperf⟩)

/-! ## Command words -/

/-- The error for which a word is rejected: the decoder's, or that of the decoded command's check (R183). -/
def commandError (w : Word) (st : State) : Option CmdError :=
  match decode w with
  | .ok i => commandCheck i st
  | .error c => some c

theorem commandError_ok {w : Word} {i : Instr} (h : decode w = .ok i) (st : State) :
    commandError w st = commandCheck i st := by
  simp [commandError, h]

theorem commandError_error {w : Word} {c : CmdError} (h : decode w = .error c) (st : State) :
    commandError w st = some c := by
  simp [commandError, h]

/-- All that a command word can do: be discarded, be rejected, or have its command performed. -/
theorem command_cases {w : Word} {st t : State} (h : command w st = .next t) :
    (st.err = true ∧ t = st) ∨
    (st.err = false ∧ ∃ c, commandError w st = some c ∧ t = st.raiseCmdError c w) ∨
    (∃ i, decode w = .ok i ∧ (i ≠ .zeroize → st.err = false) ∧ commandCheck i st = none ∧ t = commandEffect i st) := by
  cases hd : decode w with
  | ok i =>
    rw [command_ok hd] at h
    rw [commandError_ok hd, ← encode_of_decode hd]
    exact (exec_cases h).imp_right (Or.imp_right fun hperf => ⟨i, rfl, hperf⟩)
  | error c =>
    rw [command_error hd] at h
    rw [commandError_error hd]
    rcases runCommand_cases h with hdisc | hrej | ⟨_, hnone, _⟩
    · exact .inl hdisc
    · exact .inr (.inl hrej)
    · cases hnone

/-- A recorded code and word fit: the code's cause is the word's on this build (R180). -/
theorem explains_of_commandError {w : Word} {st : State} {c : CmdError} (h : commandError w st = some c) :
    explains st.keyw c.code w := by
  unfold explains
  cases hd : decode w with
  | error e =>
    rw [commandError_error hd] at h
    cases h
    rcases decode_error hd with rfl | rfl
    · exact .inl ⟨rfl, rfl⟩
    · exact .inr (.inl ⟨rfl, rfl⟩)
  | ok i =>
    rw [commandError_ok hd] at h
    cases i with
    | keyexp ksz =>
      obtain ⟨hne, rfl⟩ := kszError_eq_some h
      exact .inr (.inr (.inr (.inl ⟨rfl, ksz, hne, rfl⟩)))
    | encb => cases keyError_eq_some h; exact .inr (.inr (.inr (.inr ⟨rfl, .encb, rfl, rfl, rfl⟩)))
    | hgen => cases keyError_eq_some h; exact .inr (.inr (.inr (.inr ⟨rfl, .hgen, rfl, rfl, rfl⟩)))
    | ghash len =>
      obtain ⟨hlen, rfl⟩ := lenError_eq_some h
      exact .inr (.inr (.inl ⟨rfl, len, hlen, .inl rfl⟩))
    | ctrx len =>
      rcases Option.or_eq_some_iff.1 h with hl | ⟨hl, hk⟩
      · obtain ⟨hlen, rfl⟩ := lenError_eq_some hl
        exact .inr (.inr (.inl ⟨rfl, len, hlen, .inr rfl⟩))
      · cases keyError_eq_some hk
        have hlegal : legalLen len = true := by
          by_contra hn
          rw [lenError_illegal (Bool.eq_false_iff.2 hn)] at hl
          cases hl
        exact .inr (.inr (.inr (.inr ⟨rfl, .ctrx len, rfl, hlegal, rfl⟩)))
    | _ => cases h

end Sys2Proof.Machine
end

section
/-! PROOFS. Everything that a step can do to the registers, and what follows from it alone: the invariants and the
writers of each register (spec/10_state.md rules R22 to R37). -/

namespace Sys2Proof.Machine

/-! ## Everything a step can do -/

/-- The states that a step of `st` may leave, by what it did to the registers. -/
inductive StepEffect (st : State) : State → Prop
  /-- No register changes: nothing waits, a read, a bus error, a discarded command, an ignored write. -/
  | quiet (es : List HostEvent) (a : Option Response) : StepEffect st ((st.setPending es).setRsp a)
  /-- Reset. -/
  | reset (q : Option Request) (es : List HostEvent) (hp : st.pending = .reset q :: es) :
      StepEffect st (st.setPending es).applyReset
  /-- A rejected command. -/
  | rejected (w : Word) (c : CmdError) (es : List HostEvent) (hp : st.pending = cmdWrite w :: es)
      (he : st.err = false) (hc : commandError w (st.setPending es) = some c) :
      StepEffect st (((st.setPending es).raiseCmdError c w).setRsp (some ⟨0, false⟩))
  /-- A performed command. -/
  | performed (i : Instr) (es : List HostEvent) (u : State) (hp : st.pending = issue i :: es)
      (he : i ≠ .zeroize → st.err = false) (hc : commandCheck i (st.setPending es) = none)
      (hu : CommandWrites (st.setPending es) i u) : StepEffect st (u.setRsp (some ⟨0, false⟩))
  /-- ClearError. -/
  | cleared (v : Word) (es : List HostEvent) (hp : st.pending = wr .status v :: es) (hv : v.getLsbD 1 = true) :
      StepEffect st ((st.setPending es).clearError.setRsp (some ⟨0, false⟩))
  /-- A write to a register other than CMD and STATUS. -/
  | written (r : Reg) (v : Word) (es : List HostEvent) (hp : st.pending = wr r v :: es) (hcmd : r ≠ .cmd)
      (hstatus : r ≠ .status) : StepEffect st ((writeReg (st.setPending es) v r).setRsp (some ⟨0, false⟩))

theorem setPending_of_eq {st : State} {es : List HostEvent} (h : st.pending = es) : st.setPending es = st := by
  subst h; rfl

theorem writeReg_status (st : State) (v : Word) :
    writeReg st v .status = if v.getLsbD 1 then st.clearError else st := rfl

/-- A step that takes a command word discards, rejects or performs it. -/
theorem stepEffect_of_command {st u : State} {w : Word} {es : List HostEvent} (hp : st.pending = cmdWrite w :: es)
    (h : command w (st.setPending es) = .next u) : StepEffect st (u.setRsp (some ⟨0, false⟩)) := by
  rcases command_cases h with ⟨_, rfl⟩ | ⟨he, c, hc, rfl⟩ | ⟨i, hd, he, hc, rfl⟩
  · exact .quiet es _
  · exact .rejected w c es hp he hc
  · rw [← encode_of_decode hd] at hp
    exact .performed i es _ hp he hc (commandEffect_writes i _)

/-- A step that takes a write to a register other than CMD writes it, clears the error record or ignores the write. -/
theorem stepEffect_of_write {st : State} {q : Request} {es : List HostEvent} (hp : st.pending = .request q :: es)
    (ha : q.aligned = true) (hw : q.write = true) (hcmd : regAt q.addr ≠ .cmd) :
    StepEffect st ((writeReg (st.setPending es) q.wdata (regAt q.addr)).setRsp (some ⟨0, false⟩)) := by
  by_cases hres : regAt q.addr = .reserved
  · rw [hres]; exact .quiet es _
  · rw [request_eq_wr ha hw hres] at hp
    by_cases hstatus : regAt q.addr = .status
    · rw [hstatus] at hp ⊢
      rw [writeReg_status]
      split
      · exact .cleared _ es hp ‹_›
      · exact .quiet es _
    · exact .written _ _ es hp hcmd hstatus

/-- Every step has one of the listed effects. -/
theorem step_effect {st t : State} (h : step st = .next t) : StepEffect st t := by
  rcases step_window_cases h with ⟨hp, rfl⟩ | ⟨q, es, hp, rfl⟩ | ⟨_, es, a, _, _, rfl⟩ | ⟨w, es, u, hp, hu, rfl⟩ |
    ⟨q, es, hp, ha, hw, hcmd, rfl⟩
  · have hquiet := StepEffect.quiet (st := st) [] none
    rwa [setPending_of_eq hp] at hquiet
  · exact .reset q es hp
  · exact .quiet es _
  · exact stepEffect_of_command hp hu
  · exact stepEffect_of_write hp ha hw hcmd

/-! ## The invariants -/

theorem resetOf_inv (w : KeyWidth) : (State.resetOf w).Inv :=
  ⟨⟨fun _ => ⟨rfl, rfl⟩, nofun⟩, List.length_replicate, nofun, fun _ => rfl⟩

theorem raiseCmdError_inv {st : State} {c : CmdError} {w : Word} (h : st.Inv) (hc : commandError w st = some c) :
    (st.raiseCmdError c w).Inv :=
  have hfits : explains st.keyw c.code w := explains_of_commandError hc
  ⟨⟨nofun, fun _ => hfits⟩, h.2⟩

theorem clearError_inv {st : State} (h : st.Inv) : st.clearError.Inv :=
  ⟨⟨fun _ => ⟨rfl, rfl⟩, nofun⟩, h.2⟩

/-- Only KEYEXP and ZEROIZE touch what the invariants speak of: an expansion with KVALID, zeros without. -/
theorem commandWrites_inv {st u : State} {i : Instr} (h : st.Inv) (hu : CommandWrites st i u) : u.Inv := by
  cases hu with
  | keyexp ksz => exact ⟨h.1, length_keyExpand _ _, fun _ => ⟨st.key, rfl⟩, nofun⟩
  | zeroize => exact ⟨h.1, List.length_replicate, nofun, fun _ => rfl⟩
  | _ => exact h

theorem writeReg_inv {st : State} (h : st.Inv) (v : Word) {r : Reg} (hr : r ≠ .status) : (writeReg st v r).Inv := by
  cases r with
  | status => exact absurd rfl hr
  | _ => exact h

/-- Settles O24: by what the step did; only a rejection, ClearError, KEYEXP, ZEROIZE and reset touch the invariants. -/
theorem stepKeepsErrorRecordAndSchedule : Obligations.StepKeepsErrorRecordAndSchedule := by
  unfold Obligations.StepKeepsErrorRecordAndSchedule
  intro s t hinv hstep
  cases step_effect hstep with
  | quiet es a => exact hinv
  | reset q es hp => exact resetOf_inv s.keyw
  | rejected w c es hp he hc => exact raiseCmdError_inv (st := s.setPending es) hinv hc
  | performed i es u hp he hc hu => exact commandWrites_inv (st := s.setPending es) (u := u) hinv hu
  | cleared v es hp hv => exact clearError_inv (st := s.setPending es) hinv
  | written r v es hp hcmd hstatus => exact writeReg_inv (st := s.setPending es) hinv v hstatus

/-- Settles O25. -/
theorem resetHasTheInvariants : Obligations.ResetHasTheInvariants := by
  unfold Obligations.ResetHasTheInvariants
  exact resetOf_inv

/-! ## The build -/

theorem commandWrites_keyw {st u : State} {i : Instr} (hu : CommandWrites st i u) : u.keyw = st.keyw := by
  cases hu <;> rfl

theorem writeReg_keyw (st : State) (v : Word) {r : Reg} (hr : r ≠ .status) : (writeReg st v r).keyw = st.keyw := by
  cases r with
  | status => exact absurd rfl hr
  | _ => rfl

/-- No step changes the build (R7). -/
theorem step_keyw {st t : State} (h : step st = .next t) : t.keyw = st.keyw := by
  cases step_effect h with
  | performed i es u hp he hc hu => exact commandWrites_keyw (st := st.setPending es) (u := u) hu
  | written r v es hp hcmd hstatus => exact writeReg_keyw _ v hstatus
  | _ => rfl

theorem busRead_id (st : State) : busRead 0x00 st = idWord := rfl

theorem busRead_cfg (st : State) : busRead 0x04 st = cfgWord st.keyw := rfl

/-- Settles O26. -/
theorem idAndCfgAreConstant : Obligations.IdAndCfgAreConstant := by
  unfold Obligations.IdAndCfgAreConstant
  refine ⟨fun s t hstep => ⟨step_keyw hstep, ?_⟩, fun s => ⟨busRead_id s, ?_⟩⟩
  · rw [busRead_cfg, busRead_cfg, step_keyw hstep]
  · rw [busRead_cfg]
    refine ⟨?_, ?_, ?_, ?_⟩ <;> intro hw <;> rw [hw] <;> decide

/-! ## The schedule -/

/-- Settles O28: of the effects of a step, only KEYEXP's, ZEROIZE's and reset's write KVALID or RK. -/
theorem scheduleChangesOnlyByKeyexpZeroizeReset : Obligations.ScheduleChangesOnlyByKeyexpZeroizeReset := by
  unfold Obligations.ScheduleChangesOnlyByKeyexpZeroizeReset
  intro s t hstep
  cases step_effect hstep with
  | reset q es hp => exact .inr (.inr ⟨.inr ⟨q, es, hp⟩, rfl, rfl⟩)
  | performed i es u hp he hc hu =>
    cases hu with
    | keyexp ksz =>
      have hksz : ksz = s.keyw.ksz := kszError_eq_none hc
      subst hksz
      exact .inr (.inl ⟨he nofun, ⟨es, hp⟩, rfl, rfl⟩)
    | zeroize => exact .inr (.inr ⟨.inl ⟨es, hp⟩, rfl, rfl⟩)
    | _ => exact .inl ⟨rfl, rfl⟩
  | written r v es hp hcmd hstatus =>
    cases r with
    | status => exact absurd rfl hstatus
    | _ => exact .inl ⟨rfl, rfl⟩
  | _ => exact .inl ⟨rfl, rfl⟩

/-- A command and reset are the only events that change the schedule. -/
theorem step_keeps_schedule {s t : State} (hcmd : ∀ i, ¬ s.nextIsCommand i) (hreset : ¬ s.nextIsReset)
    (h : step s = .next t) : t.kvalid = s.kvalid ∧ t.rk = s.rk := by
  rcases scheduleChangesOnlyByKeyexpZeroizeReset s t h with hsame | ⟨_, hk, _⟩ | ⟨hz | hr, _⟩
  · exact hsame
  · exact absurd hk (hcmd _)
  · exact absurd hz (hcmd _)
  · exact absurd hr hreset

/-! ## Who writes a register -/

/-- A part of the state that holds neither the response, nor the events that wait, nor the error record. -/
structure IsRegister {α : Type} (f : State → α) : Prop where
  setRsp : ∀ st a, f (st.setRsp a) = f st := by intros; rfl
  setPending : ∀ st es, f (st.setPending es) = f st := by intros; rfl
  raiseCmdError : ∀ st c w, f (st.raiseCmdError c w) = f st := by intros; rfl
  clearError : ∀ st, f st.clearError = f st := by intros; rfl

/-- A step that changes a register took a reset, a command that writes it or a write that changes it. -/
theorem step_writer {α : Type} {f : State → α} (hf : IsRegister f) {s t : State} (h : step s = .next t) :
    f t = f s ∨ s.nextIsReset ∨ (∃ i st u, s.nextIsCommand i ∧ CommandWrites st i u ∧ f u ≠ f st) ∨
      (∃ r v st, s.nextIsWrite r ∧ r ≠ .status ∧ f (writeReg st v r) ≠ f st) := by
  by_cases hsame : f t = f s
  · exact .inl hsame
  refine .inr ?_
  cases step_effect h with
  | quiet es a => exact absurd (by rw [hf.setRsp, hf.setPending]) hsame
  | reset q es hp => exact .inl ⟨q, es, hp⟩
  | rejected w c es => exact absurd (by rw [hf.setRsp, hf.raiseCmdError, hf.setPending]) hsame
  | performed i es u hp he hc hu =>
    rw [hf.setRsp, ← hf.setPending s es] at hsame
    exact .inr (.inl ⟨i, _, u, ⟨es, hp⟩, hu, hsame⟩)
  | cleared v es => exact absurd (by rw [hf.setRsp, hf.clearError, hf.setPending]) hsame
  | written r v es hp hcmd hstatus =>
    rw [hf.setRsp, ← hf.setPending s es] at hsame
    exact .inr (.inr ⟨r, v, _, ⟨v, es, hp⟩, hstatus, hsame⟩)

theorem key_writers {s t : State} (h : step s = .next t) :
    t.key = s.key ∨ (∃ j, s.nextIsWrite (.key j)) ∨ s.nextIsCommand .zeroize ∨ s.nextIsReset := by
  rcases step_writer (f := State.key) {} h with hsame | hreset | ⟨i, st, u, hi, hu, hne⟩ | ⟨r, v, st, hr, hstatus, hne⟩
  · exact .inl hsame
  · exact .inr (.inr (.inr hreset))
  · cases hu with
    | zeroize => exact .inr (.inr (.inl hi))
    | _ => exact absurd rfl hne
  · cases r with
    | key j => exact .inr (.inl ⟨j, hr⟩)
    | status => exact absurd rfl hstatus
    | _ => exact absurd rfl hne

theorem din_writers {s t : State} (h : step s = .next t) :
    t.din = s.din ∨ (∃ j, s.nextIsWrite (.din j)) ∨ s.nextIsCommand .zeroize ∨ s.nextIsReset := by
  rcases step_writer (f := State.din) {} h with hsame | hreset | ⟨i, st, u, hi, hu, hne⟩ | ⟨r, v, st, hr, hstatus, hne⟩
  · exact .inl hsame
  · exact .inr (.inr (.inr hreset))
  · cases hu with
    | zeroize => exact .inr (.inr (.inl hi))
    | _ => exact absurd rfl hne
  · cases r with
    | din j => exact .inr (.inl ⟨j, hr⟩)
    | status => exact absurd rfl hstatus
    | _ => exact absurd rfl hne

theorem dout_writers {s t : State} (h : step s = .next t) :
    t.dout = s.dout ∨ s.nextIsCommand .encb ∨ s.nextIsCommand .gmul ∨ (∃ len, s.nextIsCommand (.ctrx len)) ∨
      s.nextIsCommand .zeroize ∨ s.nextIsReset := by
  rcases step_writer (f := State.dout) {} h with hsame | hreset | ⟨i, st, u, hi, hu, hne⟩ | ⟨r, v, st, hr, hstatus, hne⟩
  · exact .inl hsame
  · exact .inr (.inr (.inr (.inr (.inr hreset))))
  · cases hu with
    | encb dout => exact .inr (.inl hi)
    | gmul dout => exact .inr (.inr (.inl hi))
    | ctrx len dout ctr => exact .inr (.inr (.inr (.inl ⟨len, hi⟩)))
    | zeroize => exact .inr (.inr (.inr (.inr (.inl hi))))
    | _ => exact absurd rfl hne
  · cases r with
    | status => exact absurd rfl hstatus
    | _ => exact absurd rfl hne

theorem h_writers {s t : State} (h : step s = .next t) :
    t.h = s.h ∨ s.nextIsCommand .hgen ∨ (∃ j, s.nextIsWrite (.h j)) ∨ s.nextIsCommand .zeroize ∨ s.nextIsReset := by
  rcases step_writer (f := State.h) {} h with hsame | hreset | ⟨i, st, u, hi, hu, hne⟩ | ⟨r, v, st, hr, hstatus, hne⟩
  · exact .inl hsame
  · exact .inr (.inr (.inr (.inr hreset)))
  · cases hu with
    | hgen h => exact .inr (.inl hi)
    | zeroize => exact .inr (.inr (.inr (.inl hi)))
    | _ => exact absurd rfl hne
  · cases r with
    | h j => exact .inr (.inr (.inl ⟨j, hr⟩))
    | status => exact absurd rfl hstatus
    | _ => exact absurd rfl hne

theorem s_writers {s t : State} (h : step s = .next t) :
    t.s = s.s ∨ s.nextIsCommand .ghinit ∨ (∃ len, s.nextIsCommand (.ghash len)) ∨ (∃ j, s.nextIsWrite (.s j)) ∨
      s.nextIsCommand .zeroize ∨ s.nextIsReset := by
  rcases step_writer (f := State.s) {} h with hsame | hreset | ⟨i, st, u, hi, hu, hne⟩ | ⟨r, v, st, hr, hstatus, hne⟩
  · exact .inl hsame
  · exact .inr (.inr (.inr (.inr (.inr hreset))))
  · cases hu with
    | ghinit s => exact .inr (.inl hi)
    | ghash len s => exact .inr (.inr (.inl ⟨len, hi⟩))
    | zeroize => exact .inr (.inr (.inr (.inr (.inl hi))))
    | _ => exact absurd rfl hne
  · cases r with
    | s j => exact .inr (.inr (.inr (.inl ⟨j, hr⟩)))
    | status => exact absurd rfl hstatus
    | _ => exact absurd rfl hne

theorem ctr_writers {s t : State} (h : step s = .next t) :
    t.ctr = s.ctr ∨ (∃ len, s.nextIsCommand (.ctrx len)) ∨ s.nextIsCommand .ctrinc ∨ (∃ j, s.nextIsWrite (.ctr j)) ∨
      s.nextIsCommand .zeroize ∨ s.nextIsReset := by
  rcases step_writer (f := State.ctr) {} h with hsame | hreset | ⟨i, st, u, hi, hu, hne⟩ | ⟨r, v, st, hr, hstatus, hne⟩
  · exact .inl hsame
  · exact .inr (.inr (.inr (.inr (.inr hreset))))
  · cases hu with
    | ctrx len dout ctr => exact .inr (.inl ⟨len, hi⟩)
    | ctrinc ctr => exact .inr (.inr (.inl hi))
    | zeroize => exact .inr (.inr (.inr (.inr (.inl hi))))
    | _ => exact absurd rfl hne
  · cases r with
    | ctr j => exact .inr (.inr (.inr (.inl ⟨j, hr⟩)))
    | status => exact absurd rfl hstatus
    | _ => exact absurd rfl hne

/-- A write to a register other than CMD is no command and no reset. -/
theorem not_command_of_nextIsWrite {s : State} {r : Reg} (hr : r ≠ .cmd) (h : s.nextIsWrite r) :
    (∀ i, ¬ s.nextIsCommand i) ∧ ¬ s.nextIsReset := by
  obtain ⟨v, es, hp⟩ := h
  constructor
  · rintro i ⟨es', hp'⟩
    rw [hp] at hp'
    simp only [issue, wr, List.cons.injEq, HostEvent.request.injEq, Request.mk.injEq] at hp'
    obtain ⟨⟨_, hoff, _⟩, _⟩ := hp'
    exact hr (by rw [← regAt_offset r, hoff, regAt_offset])
  · rintro ⟨q, es', hp'⟩
    rw [hp] at hp'
    cases hp'

/-- Settles O29: the second half from the schedule's writers, none of which is a register write. -/
theorem keyChangesOnlyByHostZeroizeReset : Obligations.KeyChangesOnlyByHostZeroizeReset := by
  unfold Obligations.KeyChangesOnlyByHostZeroizeReset
  refine ⟨fun s t hstep => key_writers hstep, fun s t j hwrite hstep => ?_⟩
  obtain ⟨hcmd, hreset⟩ := not_command_of_nextIsWrite (r := .key j) nofun hwrite
  exact (step_keeps_schedule hcmd hreset hstep).symm

/-- Settles O30, a register at a time. -/
theorem dataRegistersHaveOnlyTheirWriters : Obligations.DataRegistersHaveOnlyTheirWriters := by
  unfold Obligations.DataRegistersHaveOnlyTheirWriters
  exact fun s t hstep =>
    ⟨din_writers hstep, dout_writers hstep, h_writers hstep, s_writers hstep, ctr_writers hstep⟩

end Sys2Proof.Machine
end

section
/-! PROOFS. The step by its event: idle, or the event taken; a CMD write runs the command of its word
(spec/20_memory.md rule R51, spec/60_exceptions.md rule R181). -/

namespace Sys2Proof.Machine

/-- A write of a word to CMD is the word's command, answered. -/
theorem takeEvent_cmdWrite (w : Word) (st : State) :
    takeEvent st (cmdWrite w) = respond ⟨0, false⟩ (command w st) := by
  simp [cmdWrite, takeEvent, transaction, Request.aligned, busWrite, regAt_eq_cmd]

/-- The step that takes a CMD write of a command's word runs the command. -/
theorem step_cmdWrite {st : State} {w : Word} {i : Instr} {es : List HostEvent} (hp : st.pending = cmdWrite w :: es)
    (hd : decode w = .ok i) : step st = respond ⟨0, false⟩ (exec i (st.setPending es)) := by
  rw [step_event hp, takeEvent_cmdWrite, command_ok hd]

theorem decode_of_decodeTableWord {nbits w : Nat} {i : Instr} (h : decodeTableWord nbits w = some i) :
    decode (tableWord nbits w) = .ok i := by
  unfold decodeTableWord at h
  split at h
  · split at h
    · rename_i hd; cases h; exact hd
    · cases h
  · cases h

/-- Settles O7. -/
theorem stepRunsTheDecodedCommand : Obligations.StepRunsTheDecodedCommand := by
  unfold Obligations.StepRunsTheDecodedCommand
  refine ⟨fun s e es hp => step_event hp, fun s r => rfl, fun s w i es hp hd => step_cmdWrite hp hd,
    fun s nbits w i h => ?_⟩
  exact step_cmdWrite (st := s.withFetchWord nbits w) rfl (decode_of_decodeTableWord h)

/-- Settles O9. -/
theorem idleBlockHoldsItsState : Obligations.IdleBlockHoldsItsState := by
  unfold Obligations.IdleBlockHoldsItsState
  exact fun s hp => step_idle hp

end Sys2Proof.Machine
end

section
/-! PROOFS. Noninterference: which secrets a step cannot show (spec/10_state.md rules R28, R31, R35). A relation between
states that every shared operation preserves is preserved by the step, where the command that the step performs
preserves it too. -/

namespace Sys2Proof.Machine

/-! ## Relations that operations preserve -/

/-- Related states are taken to related states. -/
def Preserves (R : State → State → Prop) (g : State → State) : Prop := ∀ a b, R a b → R (g a) (g b)

/-- Where the first outcome is a next state, the second is one related to it. -/
def NextRelated (R : State → State → Prop) (o o' : Host.Outcome State Fault Refusal) : Prop :=
  ∀ t, o = .next t → ∃ u, o' = .next u ∧ R t u

/-- Related states have the same commands rejected and discarded alike. -/
structure CommandCongruence (R : State → State → Prop) : Prop where
  err : ∀ a b, R a b → a.err = b.err
  commandCheck : ∀ i a b, R a b → commandCheck i a = commandCheck i b
  raiseCmdError : ∀ c w, Preserves R (·.raiseCmdError c w)

/-- Related states look alike to the host, and every step that performs no command keeps them related. -/
structure StepCongruence (R : State → State → Prop) : Prop extends CommandCongruence R where
  pending : ∀ a b, R a b → a.pending = b.pending
  readReg : ∀ r a b, R a b → readReg a r = readReg b r
  setPending : ∀ es, Preserves R (·.setPending es)
  setRsp : ∀ rsp, Preserves R (·.setRsp rsp)
  clearError : Preserves R (·.clearError)
  writeReg : ∀ v r, r ≠ .status → Preserves R (writeReg · v r)
  applyReset : Preserves R (·.applyReset)

section Congruence

variable {R : State → State → Prop} {a b : State}

theorem nextRelated_next (hab : R a b) : NextRelated R (.next a) (.next b) := by
  rintro t h
  cases h
  exact ⟨b, rfl, hab⟩

theorem nextRelated_respond {o o' : Host.Outcome State Fault Refusal} {rsp : Response}
    (hrsp : Preserves R (·.setRsp (some rsp))) (h : NextRelated R o o') :
    NextRelated R (respond rsp o) (respond rsp o') := by
  intro t ht
  obtain ⟨t', ho, rfl⟩ := respond_next_iff.1 ht
  obtain ⟨u', ho', hR⟩ := h t' ho
  exact ⟨_, respond_next_iff.2 ⟨u', ho', rfl⟩, hrsp _ _ hR⟩

namespace CommandCongruence

theorem nextRelated_runCommand (hR : CommandCongruence R) (hab : R a b) {w : Word} {c : Option CmdError} {p q : State}
    (hpq : R p q) : NextRelated R (runCommand w c p a) (runCommand w c q b) := by
  cases he : a.err with
  | true =>
    rw [runCommand_discarded he, runCommand_discarded (hR.err a b hab ▸ he)]
    exact nextRelated_next hab
  | false =>
    have he' : b.err = false := hR.err a b hab ▸ he
    cases c with
    | some c =>
      rw [runCommand_rejected he, runCommand_rejected he']
      exact nextRelated_next (hR.raiseCmdError c w a b hab)
    | none =>
      rw [runCommand_performed he, runCommand_performed he']
      exact nextRelated_next hpq

/-- A command on related states ends in related states where its effect does. -/
theorem nextRelated_exec (hR : CommandCongruence R) (hab : R a b) {i : Instr}
    (hi : R (commandEffect i a) (commandEffect i b)) : NextRelated R (exec i a) (exec i b) := by
  by_cases hz : i = .zeroize
  · subst hz
    exact nextRelated_next hi
  · rw [exec_eq_runCommand hz, exec_eq_runCommand hz, hR.commandCheck i a b hab]
    exact hR.nextRelated_runCommand hab hi

theorem nextRelated_command (hR : CommandCongruence R) (hab : R a b) {w : Word}
    (hi : ∀ i, decode w = .ok i → R (commandEffect i a) (commandEffect i b)) :
    NextRelated R (command w a) (command w b) := by
  cases hd : decode w with
  | ok i =>
    rw [command_ok hd, command_ok hd]
    exact hR.nextRelated_exec hab (hi i hd)
  | error c =>
    rw [command_error hd, command_error hd]
    exact hR.nextRelated_runCommand hab hab

end CommandCongruence

namespace StepCongruence

/-- A write to any register, STATUS among them. -/
theorem preserves_writeReg (hR : StepCongruence R) (v : Word) (r : Reg) :
    Preserves R (Machine.writeReg · v r) := by
  by_cases hr : r = .status
  · subst hr
    intro a b hab
    simp only [writeReg_status]
    split
    · exact hR.clearError a b hab
    · exact hab
  · exact hR.writeReg v r hr

theorem nextRelated_transaction (hR : StepCongruence R) (hab : R a b) {r : Request}
    (hi : ∀ i, HostEvent.request r = issue i → Preserves R (commandEffect i)) :
    NextRelated R (transaction r a) (transaction r b) := by
  have hrespond : ∀ rsp, NextRelated R (respond rsp (.next a)) (respond rsp (.next b)) := fun rsp =>
    nextRelated_respond (hR.setRsp _) (nextRelated_next hab)
  unfold transaction busWrite busRead
  split
  case isFalse => exact hrespond _
  case isTrue ha =>
    split
    case isFalse => rw [hR.readReg _ a b hab]; exact hrespond _
    case isTrue hw =>
      refine nextRelated_respond (hR.setRsp _) ?_
      split
      case isTrue hcmd =>
        refine hR.nextRelated_command hab fun i hd => hi i ?_ a b hab
        rw [request_eq_cmdWrite ha hw hcmd, ← encode_of_decode hd]
        rfl
      case isFalse => exact nextRelated_next (hR.preserves_writeReg _ _ a b hab)

/-- A step of related states ends in related states where the effect of the command it takes, if any, preserves the
relation. -/
theorem nextRelated_step (hR : StepCongruence R) (hab : R a b)
    (hi : ∀ i, a.nextIsCommand i → Preserves R (commandEffect i)) : NextRelated R (step a) (step b) := by
  have hpending := hR.pending a b hab
  cases hp : a.pending with
  | nil =>
    rw [step_idle hp, step_idle (hpending ▸ hp)]
    exact nextRelated_next (hR.setRsp _ a b hab)
  | cons e es =>
    rw [step_event hp, step_event (hpending ▸ hp)]
    have hab' := hR.setPending es a b hab
    cases e with
    | request r => exact hR.nextRelated_transaction hab' fun i hr => hi i ⟨es, hr ▸ hp⟩
    | reset q => exact nextRelated_next (hR.applyReset _ _ hab')

end StepCongruence

end Congruence

/-! ## RK -/

theorem sameButRk_congruence : StepCongruence sameButRk where
  err := by rintro a b ⟨rk, rfl⟩; rfl
  commandCheck := by rintro i a b ⟨rk, rfl⟩; cases i <;> rfl
  raiseCmdError := by rintro c w a b ⟨rk, rfl⟩; exact ⟨rk, rfl⟩
  pending := by rintro a b ⟨rk, rfl⟩; rfl
  readReg := by rintro r a b ⟨rk, rfl⟩; cases r <;> rfl
  setPending := by rintro es a b ⟨rk, rfl⟩; exact ⟨rk, rfl⟩
  setRsp := by rintro rsp a b ⟨rk, rfl⟩; exact ⟨rk, rfl⟩
  clearError := by rintro a b ⟨rk, rfl⟩; exact ⟨rk, rfl⟩
  writeReg := by
    rintro v r hr a b ⟨rk, rfl⟩
    cases r with
    | status => exact absurd rfl hr
    | _ => exact ⟨rk, rfl⟩
  applyReset := by rintro a b ⟨rk, rfl⟩; exact ⟨_, rfl⟩

/-- Only ENCB, HGEN and CTRX read the schedule (R31). -/
theorem sameButRk_commandEffect {i : Instr} (hencb : i ≠ .encb) (hhgen : i ≠ .hgen) (hctrx : ∀ len, i ≠ .ctrx len) :
    Preserves sameButRk (commandEffect i) := by
  rintro a b ⟨rk, rfl⟩
  cases i with
  | encb => exact absurd rfl hencb
  | hgen => exact absurd rfl hhgen
  | ctrx len => exact absurd rfl (hctrx len)
  | _ => exact ⟨_, rfl⟩

/-- A request that is no CMD write is no command and no reset. -/
theorem not_command_of_request {s : State} {r : Request} {es : List HostEvent} (hp : s.pending = .request r :: es)
    (hr : ∀ w, .request r ≠ cmdWrite w) : (∀ i, ¬ s.nextIsCommand i) ∧ ¬ s.nextIsReset := by
  constructor
  · rintro i ⟨es', hp'⟩
    rw [hp] at hp'
    injection hp' with hissue
    exact hr (encode i) hissue
  · rintro ⟨q, es', hp'⟩
    rw [hp] at hp'
    cases hp'

/-- Settles O35: the relation is preserved by everything but the three commands that read RK, and RK is written by
commands and reset alone. -/
theorem rkShowsOnlyThroughEncbHgenCtrx : Obligations.RkShowsOnlyThroughEncbHgenCtrx := by
  unfold Obligations.RkShowsOnlyThroughEncbHgenCtrx
  refine ⟨fun a b t hab hencb hhgen hctrx hstep => ?_, fun s t r es hp hr hstep => ?_⟩
  · refine sameButRk_congruence.nextRelated_step hab (fun i hi => sameButRk_commandEffect ?_ ?_ ?_) t hstep
    · rintro rfl; exact hencb hi
    · rintro rfl; exact hhgen hi
    · rintro len rfl; exact hctrx len hi
  · obtain ⟨hcmd, hreset⟩ := not_command_of_request hp hr
    exact (step_keeps_schedule hcmd hreset hstep).2

/-! ## KEY, RK and H -/

theorem sameButSecrets_congruence : StepCongruence sameButSecrets where
  err := by rintro a b ⟨key, rk, h, rfl⟩; rfl
  commandCheck := by rintro i a b ⟨key, rk, h, rfl⟩; cases i <;> rfl
  raiseCmdError := by rintro c w a b ⟨key, rk, h, rfl⟩; exact ⟨key, rk, h, rfl⟩
  pending := by rintro a b ⟨key, rk, h, rfl⟩; rfl
  readReg := by rintro r a b ⟨key, rk, h, rfl⟩; cases r <;> rfl
  setPending := by rintro es a b ⟨key, rk, h, rfl⟩; exact ⟨key, rk, h, rfl⟩
  setRsp := by rintro rsp a b ⟨key, rk, h, rfl⟩; exact ⟨key, rk, h, rfl⟩
  clearError := by rintro a b ⟨key, rk, h, rfl⟩; exact ⟨key, rk, h, rfl⟩
  writeReg := by
    rintro v r hr a b ⟨key, rk, h, rfl⟩
    cases r with
    | status => exact absurd rfl hr
    | _ => exact ⟨_, _, _, rfl⟩
  applyReset := by rintro a b ⟨key, rk, h, rfl⟩; exact ⟨_, _, _, rfl⟩

/-- Only ENCB, GMUL, GHASH and CTRX carry a secret into another register: KEYEXP and HGEN carry KEY and RK into RK and
H. -/
theorem sameButSecrets_commandEffect {i : Instr} (hencb : i ≠ .encb) (hgmul : i ≠ .gmul)
    (hghash : ∀ len, i ≠ .ghash len) (hctrx : ∀ len, i ≠ .ctrx len) : Preserves sameButSecrets (commandEffect i) := by
  rintro a b ⟨key, rk, h, rfl⟩
  cases i with
  | encb => exact absurd rfl hencb
  | gmul => exact absurd rfl hgmul
  | ghash len => exact absurd rfl (hghash len)
  | ctrx len => exact absurd rfl (hctrx len)
  | _ => exact ⟨_, _, _, rfl⟩

/-- Settles O36: the relation is preserved by everything but the four commands that carry a secret into DOUT or S. -/
theorem secretsLeaveOnlyThroughCipherAndHashResults : Obligations.SecretsLeaveOnlyThroughCipherAndHashResults := by
  unfold Obligations.SecretsLeaveOnlyThroughCipherAndHashResults
  intro a b t hab hencb hgmul hghash hctrx hstep
  refine sameButSecrets_congruence.nextRelated_step hab (fun i hi => sameButSecrets_commandEffect ?_ ?_ ?_ ?_) t hstep
  · rintro rfl; exact hencb hi
  · rintro rfl; exact hgmul hi
  · rintro len rfl; exact hghash len hi
  · rintro len rfl; exact hctrx len hi

/-! ## KEY past the key width -/

/-- Two states that are the same but for KEY. -/
def sameButKey (a b : State) : Prop := ∃ key, b = { a with key := key }

theorem sameButKey_congruence : CommandCongruence sameButKey where
  err := by rintro a b ⟨key, rfl⟩; rfl
  commandCheck := by rintro i a b ⟨key, rfl⟩; cases i <;> rfl
  raiseCmdError := by rintro c w a b ⟨key, rfl⟩; exact ⟨key, rfl⟩

/-- The expansion reads the first `Nk` words of the key alone (R105, R110). -/
theorem keyExpand_congr {w : KeyWidth} {k k' : KeyString} (h : ∀ j < w.nk, be32 k j = be32 k' j) :
    keyExpand w k = keyExpand w k' := by
  have hwords : scheduleWords w k = scheduleWords w k' := by
    unfold scheduleWords
    rw [List.map_congr_left fun j hj => h j (List.mem_range.1 hj)]
  rw [keyExpand, keyExpand, hwords]

/-- No command reads KEY but KEYEXP, which reads the build's `Nk` words. -/
theorem sameButKey_commandEffect (i : Instr) {s : State} {k : KeyString}
    (h : ∀ j < s.keyw.nk, be32 k j = be32 s.key j) :
    sameButKey (commandEffect i s) (commandEffect i { s with key := k }) := by
  cases i with
  | keyexp ksz =>
    refine ⟨k, ?_⟩
    simp only [commandEffect]
    rw [keyExpand_congr h]
    rfl
  | _ => exact ⟨_, rfl⟩

/-- Settles O39. -/
theorem keyBytesPastTheWidthAreNeverRead : Obligations.KeyBytesPastTheWidthAreNeverRead := by
  unfold Obligations.KeyBytesPastTheWidthAreNeverRead
  intro s t i k hk hexec
  obtain ⟨u, hu, k', rfl⟩ := sameButKey_congruence.nextRelated_exec ⟨k, rfl⟩ (sameButKey_commandEffect i hk) t hexec
  exact ⟨k', hu⟩

end Sys2Proof.Machine
end

section
/-! PROOFS. The register window (spec/20_memory.md rules R51 to R62): what each request is answered, what each offset
reads as and what a write to it does, what a read sees after a write, and a block loaded by four word writes. -/

namespace Sys2Proof.Machine

/-! ## Words and bytes -/

/-- Byte `k` of a string is byte `k mod 4` of its word `k / 4` (R12). -/
theorem byteAt_be32 {w : Nat} (b : BitVec w) {k : Nat} (hk : 32 * (k / 4 + 1) ≤ w) :
    byteAt (be32 b (k / 4)) (k % 4) = byteAt b k := by
  refine BitVec.eq_of_getLsbD_eq fun i hi => ?_
  have hpos : w - 32 * (k / 4 + 1) + (32 - 8 * (k % 4 + 1) + i) = w - 8 * (k + 1) + i := by omega
  have hlt : 32 - 8 * (k % 4 + 1) + i < 32 := by omega
  rw [getLsbD_byteAt, getLsbD_be32, getLsbD_byteAt, hpos]
  simp [hlt]

/-- A word write replaces the four bytes of its word and no others. -/
theorem byteAt_setBe32 {w : Nat} (b : BitVec w) (v : Word) {j k : Nat} (hj : 32 * (j + 1) ≤ w)
    (hk : 32 * (k / 4 + 1) ≤ w) :
    byteAt (setBe32 b j v) k = if k / 4 = j then byteAt v (k % 4) else byteAt b k := by
  rw [← byteAt_be32 (setBe32 b j v) hk]
  split
  case isTrue hkj => rw [hkj, be32_setBe32_same b j v hj]
  case isFalse hkj => rw [be32_setBe32_ne b j (k / 4) v hj hk hkj, byteAt_be32 b hk]

/-- A block is its four words. -/
theorem block_ext_words {a b : Block} (h : ∀ j < 4, be32 a j = be32 b j) : a = b :=
  block_ext fun k hk => by rw [← byteAt_be32 a (by omega), ← byteAt_be32 b (by omega), h (k / 4) (by omega)]

/-- Writing the four words of a block over any block gives that block. -/
theorem setBe32_words (c b : Block) :
    setBe32 (setBe32 (setBe32 (setBe32 c 0 (be32 b 0)) 1 (be32 b 1)) 2 (be32 b 2)) 3 (be32 b 3) = b :=
  block_ext_words fun j hj => by interval_cases j <;> simp [be32_setBe32_same, be32_setBe32_ne]

/-! ## Requests -/

theorem aligned_iff {r : Request} : r.aligned = true ↔ r.size = 2 ∧ r.addr.toNat % 4 = 0 := by
  simp [Request.aligned]

theorem transaction_error {r : Request} (ha : r.aligned = false) (st : State) :
    transaction r st = .next (st.setRsp (some ⟨0, true⟩)) := by
  simp [transaction, ha, respond]

theorem transaction_read {r : Request} (ha : r.aligned = true) (hw : r.write = false) (st : State) :
    transaction r st = .next (st.setRsp (some ⟨busRead r.addr st, false⟩)) := by
  simp [transaction, ha, hw, respond]

theorem transaction_write {r : Request} (ha : r.aligned = true) (hw : r.write = true) (st : State) :
    transaction r st = respond ⟨0, false⟩ (busWrite r.addr r.wdata st) := by
  simp [transaction, ha, hw]

/-- Settles O34. -/
theorem busErrorChangesNothing : Obligations.BusErrorChangesNothing := by
  unfold Obligations.BusErrorChangesNothing
  intro s r hr
  refine transaction_error (Bool.eq_false_iff.2 fun ha => ?_) s
  obtain ⟨hsize, haddr⟩ := aligned_iff.1 ha
  exact hr.elim (absurd hsize) (absurd haddr)

/-! ## Every step answers -/

theorem busWrite_cmd {off : BitVec 8} (h : regAt off = .cmd) (v : Word) (st : State) :
    busWrite off v st = command v st := if_pos h

theorem busWrite_of_ne_cmd {off : BitVec 8} (h : regAt off ≠ .cmd) (v : Word) (st : State) :
    busWrite off v st = .next (writeReg st v (regAt off)) := if_neg h

theorem busWrite_answers (off : BitVec 8) (v : Word) (st : State) : ∃ t, busWrite off v st = .next t := by
  by_cases h : regAt off = .cmd
  · rw [busWrite_cmd h]; exact command_answers v st
  · exact ⟨_, busWrite_of_ne_cmd h v st⟩

theorem transaction_answers (r : Request) (st : State) : ∃ t, transaction r st = .next t := by
  cases ha : r.aligned with
  | false => exact ⟨_, transaction_error ha st⟩
  | true =>
    cases hw : r.write with
    | false => exact ⟨_, transaction_read ha hw st⟩
    | true =>
      obtain ⟨u, hu⟩ := busWrite_answers r.addr r.wdata st
      exact ⟨_, (transaction_write ha hw st).trans (respond_next_iff.2 ⟨u, hu, rfl⟩)⟩

/-- Settles O10, by the next event: none, a request, or reset. -/
theorem everyStepAnswersANextState : Obligations.EveryStepAnswersANextState := by
  unfold Obligations.EveryStepAnswersANextState
  intro s
  cases hp : s.pending with
  | nil => exact ⟨_, step_idle hp⟩
  | cons e es =>
    rw [step_event hp]
    cases e with
    | request r => exact transaction_answers r _
    | reset q => exact ⟨_, rfl⟩

/-! ## The window by its offsets -/

/-- The offsets of R53 stand for no register. -/
theorem regAt_reserved : ∀ off : BitVec 8,
    (0x14 ≤ off.toNat ∧ off.toNat ≤ 0x3C ∨ 0xD0 ≤ off.toNat ∧ off.toNat ≤ 0xFC) → regAt off = .reserved := by
  decide

theorem busRead_offset (r : Reg) (st : State) : busRead r.offset st = readReg st r := by
  rw [busRead, regAt_offset]

theorem busWrite_offset {r : Reg} (hr : r ≠ .cmd) (v : Word) (st : State) :
    busWrite r.offset v st = .next (writeReg st v r) := by
  rw [busWrite_of_ne_cmd (by rwa [regAt_offset]), regAt_offset]

/-- STATUS as a number: its fields do not overlap (R25). -/
theorem toNat_statusWord (st : State) :
    st.statusWord.toNat = st.errcode.toNat * 16 + st.err.toNat * 2 + st.kvalid.toNat := by
  have hfields : ∀ (c : BitVec 3) (e k : Bool),
      ((c.setWidth 32 <<< 4) ||| ((BitVec.ofBool e).setWidth 32 <<< 1) ||| (BitVec.ofBool k).setWidth 32).toNat =
        c.toNat * 16 + e.toNat * 2 + k.toNat := by decide
  exact hfields st.errcode st.err st.kvalid

/-- Settles O31: each offset is its register's, or reserved. -/
theorem busReadFollowsTheTable : Obligations.BusReadFollowsTheTable := by
  unfold Obligations.BusReadFollowsTheTable
  refine ⟨fun s => ⟨busRead_id s, busRead_cfg s, busRead_offset .cmd s, ?_, busRead_offset .errcmd s,
    fun j hj => busRead_offset (.key ⟨j, hj⟩) s, fun j hj => ⟨busRead_offset (.din ⟨j, hj⟩) s,
      busRead_offset (.dout ⟨j, hj⟩) s, busRead_offset (.h ⟨j, hj⟩) s, busRead_offset (.s ⟨j, hj⟩) s,
      busRead_offset (.ctr ⟨j, hj⟩) s⟩, fun off hoff => ?_⟩, fun s off v haddr => ?_⟩
  · have hstatus : busRead 0x0C s = s.statusWord := busRead_offset .status s
    rw [hstatus, toNat_statusWord]
  · rw [busRead, regAt_reserved off hoff]; rfl
  · exact transaction_read (aligned_iff.2 ⟨rfl, haddr⟩) rfl s

/-- Settles O32: each offset is its register's, or reserved. -/
theorem busWriteFollowsTheTable : Obligations.BusWriteFollowsTheTable := by
  unfold Obligations.BusWriteFollowsTheTable
  intro s v
  refine ⟨fun off haddr => transaction_write (aligned_iff.2 ⟨rfl, haddr⟩) rfl s, fun a t => rfl,
    busWrite_cmd (regAt_offset .cmd) v s, busWrite_offset (r := .status) nofun v s,
    fun j hj => busWrite_offset (r := .key ⟨j, hj⟩) nofun v s,
    fun j hj => ⟨busWrite_offset (r := .din ⟨j, hj⟩) nofun v s, busWrite_offset (r := .dout ⟨j, hj⟩) nofun v s,
      busWrite_offset (r := .h ⟨j, hj⟩) nofun v s, busWrite_offset (r := .s ⟨j, hj⟩) nofun v s,
      busWrite_offset (r := .ctr ⟨j, hj⟩) nofun v s⟩, ?_,
    fun b j hj k hk => byteAt_setBe32 b v (by omega) (by omega),
    fun b j hj k hk => byteAt_setBe32 b v (by omega) (by omega)⟩
  rintro off (rfl | rfl | rfl | hoff)
  · exact busWrite_offset (r := .id) nofun v s
  · exact busWrite_offset (r := .cfg) nofun v s
  · exact busWrite_offset (r := .errcmd) nofun v s
  · have hres := regAt_reserved off hoff
    rw [busWrite_of_ne_cmd (by rw [hres]; nofun), hres]
    rfl

/-! ## A read after a write -/

/-- The registers that R52 marks read/write: a read returns the word last written. -/
def Reg.readsBack : Reg → Bool
  | .din _ => true
  | .s _ => true
  | .ctr _ => true
  | _ => false

/-- The read/write registers by their offsets. -/
theorem readsBack_regAt : ∀ off : BitVec 8, off.toNat % 4 = 0 → ((regAt off).readsBack = true ↔
    (0x80 ≤ off.toNat ∧ off.toNat ≤ 0x8C ∨ 0xB0 ≤ off.toNat ∧ off.toNat ≤ 0xCC)) := by
  decide

/-- The only aligned offset at which a register stands is its own. -/
theorem eq_offset_of_regAt {off : BitVec 8} {r : Reg} (ha : off.toNat % 4 = 0) (hr : r ≠ .reserved)
    (h : regAt off = r) : off = r.offset := by
  subst h
  exact (offset_regAt off ha).resolve_left hr

theorem readReg_writeReg_same {r : Reg} (hr : r.readsBack = true) (st : State) (v : Word) :
    readReg (writeReg st v r) r = v := by
  cases r with
  | din j => exact be32_setBe32_same _ _ _ (by omega)
  | s j => exact be32_setBe32_same _ _ _ (by omega)
  | ctr j => exact be32_setBe32_same _ _ _ (by omega)
  | _ => cases hr

theorem be32_setBe32_fin_ne (b : Block) (v : Word) {j j' : Fin 4} (h : j' ≠ j) :
    be32 (setBe32 b j v) j' = be32 b j' :=
  be32_setBe32_ne b j j' v (by omega) (by omega) (Fin.val_ne_of_ne h)

/-- A write shows in no other register, nor in the one written where that does not read back. -/
theorem readReg_writeReg_other {r r' : Reg} (hstatus : r ≠ .status) (h : r.readsBack = true → r' ≠ r) (st : State)
    (v : Word) : readReg (writeReg st v r) r' = readReg st r' := by
  cases r with
  | status => exact absurd rfl hstatus
  | din j =>
    cases r' with
    | din j' => exact be32_setBe32_fin_ne _ _ (mt (congrArg Reg.din) (h rfl))
    | _ => rfl
  | s j =>
    cases r' with
    | s j' => exact be32_setBe32_fin_ne _ _ (mt (congrArg Reg.s) (h rfl))
    | _ => rfl
  | ctr j =>
    cases r' with
    | ctr j' => exact be32_setBe32_fin_ne _ _ (mt (congrArg Reg.ctr) (h rfl))
    | _ => rfl
  | key j => cases r' <;> rfl
  | h j => cases r' <;> rfl
  | _ => rfl

/-- Settles O33: the two laws of a register read after a register write, at the registers of the two offsets. -/
theorem readSeesTheLastWrite : Obligations.ReadSeesTheLastWrite := by
  unfold Obligations.ReadSeesTheLastWrite
  intro s t off off' v ha ha' hcmd hstatus hwrite
  rcases busWrite_cases hwrite with ⟨hr, _⟩ | ⟨_, rfl⟩
  · exact absurd (regAt_eq_cmd.1 hr) hcmd
  unfold busRead
  split
  case isTrue h =>
    obtain ⟨rfl, hrange⟩ := h
    exact readReg_writeReg_same ((readsBack_regAt _ ha).2 hrange) s v
  case isFalse h =>
    have hne : regAt off ≠ .status := fun hr => hstatus (eq_offset_of_regAt (r := .status) ha nofun hr)
    refine readReg_writeReg_other hne (fun hback heq => h ⟨?_, (readsBack_regAt off ha).1 hback⟩) s v
    have hres : regAt off ≠ .reserved := fun hr => by rw [hr] at hback; cases hback
    exact (eq_offset_of_regAt ha' hres heq).trans (eq_offset_of_regAt ha hres rfl).symm

/-! ## Runs of writes -/

/-- The state with its next event taken, leaving `es`, and answered as a write is. -/
def State.answered (st : State) (es : List HostEvent) : State := (st.setPending es).setRsp (some ⟨0, false⟩)

theorem answered_answered (st : State) (es es' : List HostEvent) : (st.answered es).answered es' = st.answered es' :=
  rfl

/-- What a write does to the registers does not depend on the response. -/
theorem setRsp_writeReg (st : State) (v : Word) (r : Reg) (a : Option Response) :
    (writeReg st v r).setRsp a = writeReg (st.setRsp a) v r := by
  cases r with
  | status => simp only [writeReg_status]; split <;> rfl
  | _ => rfl

/-- What a write does to the registers does not depend on the events that wait. -/
theorem setPending_writeReg (st : State) (v : Word) (r : Reg) (es : List HostEvent) :
    (writeReg st v r).setPending es = writeReg (st.setPending es) v r := by
  cases r with
  | status => simp only [writeReg_status]; split <;> rfl
  | _ => rfl

theorem answered_writeReg (st : State) (v : Word) (r : Reg) (es : List HostEvent) :
    (writeReg st v r).answered es = writeReg (st.answered es) v r := by
  rw [State.answered, setPending_writeReg, setRsp_writeReg, State.answered]

theorem pending_writeReg (st : State) (v : Word) (r : Reg) : (writeReg st v r).pending = st.pending := by
  cases r with
  | status => rw [writeReg_status]; split <;> rfl
  | _ => rfl

theorem step_wr_answered {st : State} {r : Reg} {v : Word} {es : List HostEvent} (hr : r ≠ .cmd)
    (hp : st.pending = wr r v :: es) : step st = .next (writeReg (st.answered es) v r) := by
  rw [step_wr hp hr, setRsp_writeReg, State.answered]

/-- A run from a state whose step is known. -/
theorem run_succ {s t : State} (h : step s = .next t) (n : Nat) :
    Host.Core.run Sys2Proof.core (n + 1) s = Host.Core.run Sys2Proof.core n t := by
  have hcore : Sys2Proof.core.step s = .next t := h
  simp only [Host.Core.run, hcore]

/-- The four word writes of `LD16` (R90). -/
def writeBlock (reg : Fin 4 → Reg) (b : Block) (st : State) : State :=
  writeReg (writeReg (writeReg (writeReg st (be32 b 0) (reg 0)) (be32 b 1) (reg 1)) (be32 b 2) (reg 2)) (be32 b 3)
    (reg 3)

/-- `LD16` runs as its four word writes. -/
theorem run_ld16 {reg : Fin 4 → Reg} (hreg : ∀ j, reg j ≠ .cmd) {s : State} {b : Block} {es : List HostEvent}
    (hp : s.pending = ld16 reg b ++ es) :
    Host.Core.run Sys2Proof.core 4 s = .next (writeBlock reg b (s.answered es)) := by
  rw [run_succ (step_wr_answered (hreg 0) hp), run_succ (step_wr_answered (hreg 1) (pending_writeReg _ _ _)),
    run_succ (step_wr_answered (hreg 2) (pending_writeReg _ _ _)),
    run_succ (step_wr_answered (hreg 3) (pending_writeReg _ _ _))]
  simp only [answered_writeReg, answered_answered]
  rfl

/-- A block register whose word writes are `setBe32` holds the block written to it. -/
theorem writeBlock_eq {reg : Fin 4 → Reg} {get : State → Block} {set : State → Block → State}
    (hwrite : ∀ st v j, writeReg st v (reg j) = set st (setBe32 (get st) j v)) (hget : ∀ st c, get (set st c) = c)
    (hset : ∀ st c c', set (set st c) c' = set st c') (b : Block) (st : State) : writeBlock reg b st = set st b := by
  simp only [writeBlock, hwrite, hget, hset]
  exact congrArg (set st) (setBe32_words (get st) b)

theorem writeBlock_din (b : Block) (st : State) : writeBlock .din b st = st.setDin b :=
  writeBlock_eq (get := State.din) (fun _ _ _ => rfl) setDin_din (fun _ _ _ => rfl) b st

theorem writeBlock_h (b : Block) (st : State) : writeBlock .h b st = st.setH b :=
  writeBlock_eq (get := State.h) (fun _ _ _ => rfl) setH_h (fun _ _ _ => rfl) b st

theorem writeBlock_s (b : Block) (st : State) : writeBlock .s b st = st.setS b :=
  writeBlock_eq (get := State.s) (fun _ _ _ => rfl) setS_s (fun _ _ _ => rfl) b st

theorem writeBlock_ctr (b : Block) (st : State) : writeBlock .ctr b st = st.setCtr b :=
  writeBlock_eq (get := State.ctr) (fun _ _ _ => rfl) setCtr_ctr (fun _ _ _ => rfl) b st

/-- Settles O54. -/
theorem ld16LoadsTheBlock : Obligations.Ld16LoadsTheBlock := by
  unfold Obligations.Ld16LoadsTheBlock
  refine fun s b es => ⟨fun hp => ?_, fun hp => ?_, fun hp => ?_, fun hp => ?_⟩
  · rw [run_ld16 (reg := .din) (fun _ => nofun) hp, writeBlock_din]; rfl
  · rw [run_ld16 (reg := .h) (fun _ => nofun) hp, writeBlock_h]; rfl
  · rw [run_ld16 (reg := .s) (fun _ => nofun) hp, writeBlock_s]; rfl
  · rw [run_ld16 (reg := .ctr) (fun _ => nofun) hp, writeBlock_ctr]; rfl

end Sys2Proof.Machine
end

section
/-! PROOFS. The command words (spec/30_encoding.md rules R81 to R88): the decoder undoes the encoder, the words of each
row by its mask and match, the words that are no command, and a build's legal words. -/

namespace Sys2Proof

/-! ## Rows by opcode and operand -/

/-- The command with its operand replaced by what its field of `w` holds (R82, R83). -/
def withOperandOf (w : Word) : Instr → Instr
  | .keyexp _ => .keyexp (kszField w)
  | .ghash _ => .ghash (lenField w)
  | .ctrx _ => .ctrx (lenField w)
  | i => i

/-- A word with a command's opcode selects that command's row, with the operand that the word holds. -/
theorem select_of_opField {w : Word} {i : Instr} (h : opField w = opcode i) :
    select w = some (format i, withOperandOf w i) := by
  unfold select
  cases i <;> rw [h] <;> rfl

theorem select_eq_some_iff {w : Word} {i : Instr} :
    select w = some (format i, i) ↔ opField w = opcode i ∧ withOperandOf w i = i := by
  constructor
  · intro h
    have hop := (select_some h).1
    have hsame := (select_of_opField hop).symm.trans h
    exact ⟨hop, congrArg Prod.snd (Option.some.inj hsame)⟩
  · rintro ⟨hop, hoperand⟩
    rw [select_of_opField hop, hoperand]

/-- A word selects no row exactly when its opcode is no command's. -/
theorem select_eq_none_iff {w : Word} : select w = none ↔ ∀ i, opField w ≠ opcode i := by
  constructor
  · intro h i hop
    rw [select_of_opField hop] at h
    cases h
  · intro h
    cases hs : select w with
    | none => rfl
    | some p => exact absurd (select_some hs).1 (h p.2)

/-! ## The decoder undoes the encoder -/

theorem opField_encode_and_reservedClear (i : Instr) : Laws.EncodesItsFormat.Statement i := by
  cases i with
  | keyexp ksz => exact Laws.EncodesItsFormat.keyexp ksz
  | zeroize => exact Laws.EncodesItsFormat.zeroize
  | encb => exact Laws.EncodesItsFormat.encb
  | hgen => exact Laws.EncodesItsFormat.hgen
  | gmul => exact Laws.EncodesItsFormat.gmul
  | ghinit => exact Laws.EncodesItsFormat.ghinit
  | ghash len => exact Laws.EncodesItsFormat.ghash len
  | ctrx len => exact Laws.EncodesItsFormat.ctrx len
  | ctrinc => exact Laws.EncodesItsFormat.ctrinc

/-- The operand's field of a command's word holds the command's operand. -/
theorem withOperandOf_encode (i : Instr) : withOperandOf (encode i) i = i := by
  cases i with
  | keyexp ksz => revert ksz; decide
  | ghash len => revert len; decide
  | ctrx len => revert len; decide
  | _ => rfl

theorem decode_encode (i : Instr) : decode (encode i) = .ok i :=
  have ⟨hop, hclear⟩ := opField_encode_and_reservedClear i
  decode_ok_iff.2 ⟨select_eq_some_iff.2 ⟨hop, withOperandOf_encode i⟩, hclear⟩

/-- The words of the commands are the words that decode. -/
theorem decode_eq_ok_iff {w : Word} {i : Instr} : decode w = .ok i ↔ encode i = w :=
  ⟨encode_of_decode, fun h => h ▸ decode_encode i⟩

theorem encode_injective : Function.Injective encode := fun i j h =>
  Except.ok.inj ((decode_encode i).symm.trans (h ▸ decode_encode j))

/-- Settles O1. -/
theorem decodeOfEncodeIsTheCommand : Obligations.DecodeOfEncodeIsTheCommand := by
  unfold Obligations.DecodeOfEncodeIsTheCommand
  exact decode_encode

/-- Settles O2. -/
theorem encodeOfDecodeIsTheWord : Obligations.EncodeOfDecodeIsTheWord := by
  unfold Obligations.EncodeOfDecodeIsTheWord
  exact fun w i h => encode_of_decode h

/-- Settles O6. -/
theorem specWordsDecodeAsTabled : Obligations.SpecWordsDecodeAsTabled := by
  unfold Obligations.SpecWordsDecodeAsTabled
  exact ⟨decode_encode (.keyexp 3), decode_encode .zeroize, decode_encode .encb, decode_encode .hgen,
    decode_encode .gmul, decode_encode .ghinit, decode_encode (.ghash 4), decode_encode (.ctrx 12),
    decode_encode .ctrinc⟩

/-! ## Rows by mask and match -/

/-- The bits that a format reserves (R81). -/
def reservedMask : Format → Word
  | .n => 0xFFFFFF00
  | .k => 0xFFFFFC00
  | .l => 0xFFFFE000

/-- The bits outside the format's field: the Mask of a row (R85). -/
def rowMask : Format → Word
  | .n => 0xFFFFFFFF
  | .k => 0xFFFFFCFF
  | .l => 0xFFFFE0FF

theorem rowMask_eq (f : Format) : rowMask f = 0xFF ||| reservedMask f := by cases f <;> rfl

/-- The word whose OP is a command's opcode and whose other bits are 0: the Match of the command's row (R85). -/
def opcodeWord (i : Instr) : Word := (opcode i).setWidth 32

/-- The field of the bits from `n` up is 0 exactly when the mask of those bits gives 0. -/
theorem extractLsb'_eq_zero_iff_and_mask {w mask : Word} {n : Nat}
    (hmask : ∀ i < 32, mask.getLsbD i = decide (n ≤ i)) : w.extractLsb' n (32 - n) = 0 ↔ w &&& mask = 0 := by
  have hfield : w.extractLsb' n (32 - n) = 0 ↔ ∀ i < 32 - n, w.getLsbD (n + i) = false := by
    rw [BitVec.eq_of_getLsbD_eq_iff]
    refine forall₂_congr fun i hi => ?_
    simp [hi]
  have hmasked : w &&& mask = 0 ↔ ∀ i < 32, n ≤ i → w.getLsbD i = false := by
    rw [BitVec.eq_of_getLsbD_eq_iff]
    refine forall₂_congr fun i hi => ?_
    rw [BitVec.getLsbD_and, hmask i hi]
    by_cases hin : n ≤ i <;> simp [hin]
  rw [hfield, hmasked]
  constructor
  · intro h i hi hin
    simpa [hin] using h (i - n) (by omega)
  · intro h i hi
    exact h (n + i) (by omega) (by omega)

theorem reservedClear_iff {f : Format} {w : Word} : reservedClear f w = true ↔ w &&& reservedMask f = 0 := by
  cases f with
  | n => exact beq_iff_eq.trans (extractLsb'_eq_zero_iff_and_mask (n := 8) (by decide))
  | k => exact beq_iff_eq.trans (extractLsb'_eq_zero_iff_and_mask (n := 10) (by decide))
  | l => exact beq_iff_eq.trans (extractLsb'_eq_zero_iff_and_mask (n := 13) (by decide))

/-- OP as a word. -/
theorem and_opMask (w : Word) : w &&& 0xFF = (opField w).setWidth 32 := by
  refine BitVec.eq_of_toNat_eq ?_
  have hmod : w.toNat &&& 255 = w.toNat % 256 := Nat.and_two_pow_sub_one_eq_mod w.toNat 8
  have hlt : w.toNat % 256 < 4294967296 := by omega
  simp [opField, hmod, Nat.mod_eq_of_lt hlt]

theorem opField_eq_iff {w : Word} {i : Instr} : opField w = opcode i ↔ w &&& 0xFF = opcodeWord i := by
  rw [and_opMask, opcodeWord]
  exact ⟨congrArg _, fun h => by simpa using congrArg (BitVec.setWidth 8) h⟩

/-- A comparison under two masks at once is one under each, where the value has no bit of the second mask. -/
theorem and_or_eq_iff {w a b m : Word} (hm : m &&& a = m) (hab : a &&& b = 0) :
    w &&& (a ||| b) = m ↔ w &&& a = m ∧ w &&& b = 0 := by
  constructor
  · intro h
    have habsorb : (a ||| b) &&& a = a ∧ (a ||| b) &&& b = b := ⟨by ext; simp; tauto, by ext; simp; tauto⟩
    constructor
    · rw [← habsorb.1, ← BitVec.and_assoc, h, hm]
    · rw [← habsorb.2, ← BitVec.and_assoc, h, ← hm, BitVec.and_assoc, hab]
      exact BitVec.and_zero
  · rintro ⟨ha, hb⟩
    rw [BitVec.and_or_distrib_left, ha, hb]
    exact BitVec.or_zero

/-- A word decodes to a command exactly when its bits outside the operand's field are the command's row's Match and the
field holds the command's operand (R85). -/
theorem decode_ok_iff_mask {w : Word} {i : Instr} : decode w = .ok i ↔
    w &&& rowMask (format i) = opcodeWord i ∧ withOperandOf w i = i := by
  have hop : ∀ b : Byte, b.setWidth 32 &&& 0xFF = b.setWidth 32 := by decide
  have hdisjoint : ∀ f, (0xFF : Word) &&& reservedMask f = 0 := fun f => by cases f <;> rfl
  have hboth := and_or_eq_iff (w := w) (hop (opcode i)) (hdisjoint (format i))
  rw [decode_ok_iff, select_eq_some_iff, opField_eq_iff, reservedClear_iff, rowMask_eq, opcodeWord, hboth,
    and_right_comm]

/-- Settles O3: the rows of format N have no operand, the others their field. -/
theorem wordSelectsRowByMaskAndMatch : Obligations.WordSelectsRowByMaskAndMatch := by
  unfold Obligations.WordSelectsRowByMaskAndMatch
  intro w
  have hn : ∀ i, withOperandOf w i = i →
      (decode w = .ok i ↔ w &&& rowMask (format i) = opcodeWord i) :=
    fun i hi => decode_ok_iff_mask.trans (and_iff_left hi)
  have hfield : ∀ i (p : Prop), (withOperandOf w i = i ↔ p) →
      (decode w = .ok i ↔ w &&& rowMask (format i) = opcodeWord i ∧ p) :=
    fun i p hp => decode_ok_iff_mask.trans (and_congr_right' hp)
  refine ⟨fun ksz => hfield (.keyexp ksz) _ ?_, hn .zeroize rfl, hn .encb rfl, hn .hgen rfl, hn .gmul rfl,
    hn .ghinit rfl, fun len => hfield (.ghash len) _ ?_, fun len => hfield (.ctrx len) _ ?_, hn .ctrinc rfl⟩
  · rw [withOperandOf, Instr.keyexp.injEq, eq_comm]; rfl
  · rw [withOperandOf, Instr.ghash.injEq, eq_comm]; rfl
  · rw [withOperandOf, Instr.ctrx.injEq, eq_comm]; rfl

/-! ## Words that are no command -/

theorem decode_illegalOp_iff_mask {w : Word} :
    decode w = .error .illegalOp ↔ ¬ ∃ i, w &&& 0xFF = opcodeWord i := by
  rw [decode_illegalOp_iff, select_eq_none_iff, not_exists]
  exact forall_congr' fun i => not_congr opField_eq_iff

theorem decode_rsvdBits_iff_mask {w : Word} :
    decode w = .error .rsvdBits ↔ ∃ i, w &&& 0xFF = opcodeWord i ∧ w &&& reservedMask (format i) ≠ 0 := by
  have hclear : ∀ f, reservedClear f w = false ↔ w &&& reservedMask f ≠ 0 := fun f => by
    rw [ne_eq, ← reservedClear_iff, Bool.not_eq_true]
  rw [decode_rsvdBits_iff]
  constructor
  · rintro ⟨f, i, hs, hr⟩
    obtain ⟨hop, rfl⟩ := select_some hs
    exact ⟨i, opField_eq_iff.1 hop, (hclear _).1 hr⟩
  · rintro ⟨i, hop, hr⟩
    exact ⟨format i, _, select_of_opField (opField_eq_iff.2 hop), (hclear _).2 hr⟩

/-- The nine opcodes by their formats (R85). -/
theorem exists_opcodeWord_iff (v : Word) (P : Format → Prop) : (∃ i, v = opcodeWord i ∧ P (format i)) ↔
    (v = 0x01 ∧ P .k) ∨ (v ∈ ([0x02, 0x10, 0x11, 0x20, 0x30, 0x41] : List Word) ∧ P .n) ∨
      (v ∈ ([0x31, 0x40] : List Word) ∧ P .l) := by
  constructor
  · rintro ⟨i, rfl, hP⟩
    cases i with
    | keyexp ksz => exact .inl ⟨rfl, hP⟩
    | ghash len => exact .inr (.inr ⟨.head _, hP⟩)
    | ctrx len => exact .inr (.inr ⟨.tail _ (.head _), hP⟩)
    | _ => exact .inr (.inl ⟨by decide, hP⟩)
  · simp only [List.mem_cons, List.not_mem_nil, or_false]
    rintro (⟨rfl, hP⟩ | ⟨rfl | rfl | rfl | rfl | rfl | rfl, hP⟩ | ⟨rfl | rfl, hP⟩)
    exacts [⟨.keyexp 0, rfl, hP⟩, ⟨.zeroize, rfl, hP⟩, ⟨.encb, rfl, hP⟩, ⟨.hgen, rfl, hP⟩,
      ⟨.gmul, rfl, hP⟩, ⟨.ghinit, rfl, hP⟩, ⟨.ctrinc, rfl, hP⟩, ⟨.ghash 0, rfl, hP⟩, ⟨.ctrx 0, rfl, hP⟩]

namespace Machine

/-- With ERR = 0 a word that does not decode only records the decoder's error and itself (R182). -/
theorem command_rejected {w : Word} {c : CmdError} {st : State} (hd : decode w = .error c) (he : st.err = false) :
    command w st = .next (st.raiseCmdError c w) := by
  rw [command_error hd, runCommand_rejected he]

/-- While ERR = 1 a word that does not decode does nothing (R184). -/
theorem command_discarded {w : Word} {c : CmdError} {st : State} (hd : decode w = .error c) (he : st.err = true) :
    command w st = .next st := by
  rw [command_error hd, runCommand_discarded he]

/-- Settles O8: the step answers what the command of the word does. -/
theorem illegalWordIsRecordedOrDiscarded : Obligations.IllegalWordIsRecordedOrDiscarded := by
  unfold Obligations.IllegalWordIsRecordedOrDiscarded
  intro s w c es hp hd
  rw [step_event hp, takeEvent_cmdWrite]
  constructor
  · intro he
    rw [command_rejected (st := s.setPending es) hd he]
    rfl
  · intro he
    rw [command_discarded (st := s.setPending es) hd he]
    rfl

end Machine

/-- Settles O4. -/
theorem unassignedAndReservedWordsAreIllegal : Obligations.UnassignedAndReservedWordsAreIllegal := by
  unfold Obligations.UnassignedAndReservedWordsAreIllegal
  refine ⟨fun w => ?_, fun w => ?_, Tests.test_decode_zero_illegal,
    fun w s he => ⟨fun hd => Machine.command_rejected hd he, fun hd => Machine.command_rejected hd he⟩⟩
  · have hassigned := exists_opcodeWord_iff (w &&& 0xFF) fun _ => True
    simp only [and_true] at hassigned
    have hperm : ((0x01 :: ([0x02, 0x10, 0x11, 0x20, 0x30, 0x41] ++ [0x31, 0x40])) : List Word).Perm
        [0x01, 0x02, 0x10, 0x11, 0x20, 0x30, 0x31, 0x40, 0x41] := by decide
    rw [decode_illegalOp_iff_mask, hassigned, ← hperm.mem_iff, ← List.mem_append, ← List.mem_cons]
  · rw [decode_rsvdBits_iff_mask]
    exact exists_opcodeWord_iff (w &&& 0xFF) fun f => w &&& reservedMask f ≠ 0

/-! ## The legal words of a build -/

/-- The legal lengths, 1 to 16 (R83). -/
def legalLens : List (BitVec 5) := (List.range 16).map fun n => BitVec.ofNat 5 (n + 1)

theorem mem_legalLens : ∀ len : BitVec 5, len ∈ legalLens ↔ legalLen len = true := by decide

/-- The legal commands of a build (R87). -/
def legalInstrs (kw : KeyWidth) : List Instr :=
  .keyexp kw.ksz :: .zeroize :: .encb :: .hgen :: .gmul :: .ghinit :: .ctrinc ::
    (legalLens.map Instr.ghash ++ legalLens.map Instr.ctrx)

theorem mem_legalInstrs (kw : KeyWidth) (i : Instr) : i ∈ legalInstrs kw ↔ legalFor kw i = true := by
  cases i <;> simp [legalInstrs, legalFor, wellFormed, kszMatches, mem_legalLens]

theorem nodup_legalInstrs (kw : KeyWidth) : (legalInstrs kw).Nodup := by cases kw <;> decide

/-- Settles O5: the words of the legal commands. -/
theorem eachBuildHasThirtyNineLegalWords : Obligations.EachBuildHasThirtyNineLegalWords := by
  unfold Obligations.EachBuildHasThirtyNineLegalWords
  refine fun kw => ⟨(legalInstrs kw).map encode, (nodup_legalInstrs kw).map encode_injective, rfl, fun w => ?_⟩
  simp only [List.mem_map, mem_legalInstrs, decode_eq_ok_iff, and_comm]

end Sys2Proof
end

section
/-! PROOFS. GHASHBUF and CTRBUF as runs (spec/30_encoding.md rule R90, spec/43_ghash.md rule R163, spec/44_ctr.md rules
R172 to R176): a buffer by its chunks, the events of one chunk as a run of fixed length, and a run over all of them. -/

namespace Sys2Proof.Machine

/-! ## Chunks of a buffer -/

theorem chunks_succ {d : List Byte} (hd : d ≠ []) (n : Nat) :
    chunks (n + 1) d = d.take 16 :: chunks n (d.drop 16) := by
  cases d with
  | nil => exact absurd rfl hd
  | cons b bs => rfl

theorem flatten_chunks {n : Nat} {d : List Byte} (h : d.length ≤ n) : (chunks n d).flatten = d := by
  induction n generalizing d with
  | zero => rw [List.eq_nil_of_length_eq_zero (Nat.le_zero.1 h)]; rfl
  | succ n ih =>
    by_cases hd : d = []
    · rw [hd]; rfl
    · rw [chunks_succ hd, List.flatten_cons, ih (by rw [List.length_drop]; omega), List.take_append_drop]

/-- A buffer has a chunk for each 16 bytes, and one for what is left. -/
theorem length_chunks {n : Nat} {d : List Byte} (h : d.length ≤ n) : (chunks n d).length = (d.length + 15) / 16 := by
  induction n generalizing d with
  | zero => rw [Nat.le_zero.1 h]; rfl
  | succ n ih =>
    by_cases hd : d = []
    · rw [hd]; rfl
    · have hpos := List.length_pos_iff.2 hd
      rw [chunks_succ hd, List.length_cons, ih (by rw [List.length_drop]; omega), List.length_drop]
      omega

/-- Chunk `i` is the 16 bytes from byte `16 i` on, or as many as there are. -/
theorem getD_chunks {n : Nat} {d : List Byte} (h : d.length ≤ n) (i : Nat) :
    (chunks n d).getD i [] = (d.drop (16 * i)).take 16 := by
  induction n generalizing d i with
  | zero => rw [List.eq_nil_of_length_eq_zero (Nat.le_zero.1 h), List.drop_nil]; rfl
  | succ n ih =>
    by_cases hd : d = []
    · rw [hd, List.drop_nil]; rfl
    · rw [chunks_succ hd]
      cases i with
      | zero => rfl
      | succ i =>
        rw [List.getD_cons_succ, ih (by rw [List.length_drop]; omega), List.drop_drop,
          Nat.mul_succ, Nat.add_comm]

theorem length_getD_chunks {n : Nat} {d : List Byte} (h : d.length ≤ n) (i : Nat) :
    ((chunks n d).getD i []).length = min 16 (d.length - 16 * i) := by
  rw [getD_chunks h, List.length_take, List.length_drop]

/-- A chunk of a buffer: 1 to 16 bytes (R90). -/
def IsChunk (p : List Byte) : Prop := 1 ≤ p.length ∧ p.length ≤ 16

theorem isChunk_of_mem_chunks {d p : List Byte} (hp : p ∈ chunks d.length d) : IsChunk p := by
  obtain ⟨i, hi, rfl⟩ := List.mem_iff_getElem.1 hp
  have hlen := length_getD_chunks (le_refl d.length) i
  rw [List.getD_eq_getElem _ _ hi] at hlen
  rw [length_chunks le_rfl] at hi
  rw [IsChunk, hlen]
  omega

theorem toNat_ofNat_length {p : List Byte} (hp : IsChunk p) : (BitVec.ofNat 5 p.length).toNat = p.length := by
  obtain ⟨_, hle⟩ := hp
  rw [BitVec.toNat_ofNat]
  omega

theorem legalLen_ofNat_length {p : List Byte} (hp : IsChunk p) : legalLen (BitVec.ofNat 5 p.length) = true := by
  rw [legalLen, toNat_ofNat_length hp]
  obtain ⟨hpos, hle⟩ := hp
  simp [hpos, hle]

theorem byteAt_chunkBlock (p : List Byte) {k : Nat} (hk : k < 16) : byteAt (chunkBlock p) k = p.getD k 0 :=
  byteAt_blockOfBytes _ hk

/-- GHASH's padding adds nothing to a chunk's block, which has zeros there already (R162). -/
theorem padBlock_chunkBlock {p : List Byte} (hp : IsChunk p) :
    padBlock (byteCount (BitVec.ofNat 5 p.length)) (chunkBlock p) = chunkBlock p := by
  refine block_ext fun k hk => ?_
  rw [byteAt_padBlock _ _ hk, byteCount, toNat_ofNat_length hp]
  split
  case isTrue => rfl
  case isFalse hge => rw [byteAt_chunkBlock p hk, List.getD_eq_default _ _ (by omega)]

/-! ## Runs -/

theorem run_add {m : Nat} {s t : State} (h : Host.Core.run Sys2Proof.core m s = .next t) (n : Nat) :
    Host.Core.run Sys2Proof.core (m + n) s = Host.Core.run Sys2Proof.core n t := by
  induction m generalizing s with
  | zero => rw [Nat.zero_add]; cases h; rfl
  | succ m ih =>
    obtain ⟨u, hu⟩ := everyStepAnswersANextState s
    rw [run_succ hu] at h
    rw [Nat.add_right_comm, run_succ hu, ih h]

/-- A run over chunks: where the `k` steps of each chunk's events keep `R`, a relation of the chunks done so far to the
state, so do the steps of all of them. -/
theorem run_flatMap {k : Nat} {events : List Byte → List HostEvent} {R : List (List Byte) → State → Prop}
    (hchunk : ∀ done p es s, R done s → IsChunk p → s.pending = events p ++ es →
      ∃ t, Host.Core.run Sys2Proof.core k s = .next t ∧ t.pending = es ∧ R (done ++ [p]) t)
    {ps done : List (List Byte)} {es : List HostEvent} {s : State} (hps : ∀ p ∈ ps, IsChunk p) (hR : R done s)
    (hpend : s.pending = ps.flatMap events ++ es) :
    ∃ t, Host.Core.run Sys2Proof.core (k * ps.length) s = .next t ∧ t.pending = es ∧ R (done ++ ps) t := by
  induction ps generalizing done s with
  | nil => exact ⟨s, rfl, hpend, by rwa [List.append_nil]⟩
  | cons p ps ih =>
    rw [List.flatMap_cons, List.append_assoc] at hpend
    obtain ⟨t, hrun, ht, hRt⟩ := hchunk done p _ s hR (hps p (.head _)) hpend
    obtain ⟨u, hrest, hu, hRu⟩ := ih (fun q hq => hps q (.tail _ hq)) hRt ht
    refine ⟨u, ?_, hu, by rwa [List.append_assoc] at hRu⟩
    rw [List.length_cons, Nat.mul_succ, Nat.add_comm, run_add hrun, hrest]

/-- A performed command, taken as the next event. -/
theorem step_issue_performed {st : State} {i : Instr} {es : List HostEvent} (hi : i ≠ .zeroize)
    (hp : st.pending = issue i :: es) (he : st.err = false) (hc : commandCheck i (st.setPending es) = none) :
    step st = .next ((commandEffect i (st.setPending es)).setRsp (some ⟨0, false⟩)) := by
  rw [step_issue hp, command_ok (decode_encode i), exec_eq_runCommand hi, hc,
    runCommand_performed (st := st.setPending es) he, respond]

/-- A block loaded into DIN and a command on it, performed (R90). -/
theorem run_ld16_issue {s : State} {b : Block} {i : Instr} {es : List HostEvent} (hi : i ≠ .zeroize)
    (hp : s.pending = ld16 .din b ++ issue i :: es) (he : s.err = false)
    (hc : commandCheck i ((s.answered es).setDin b) = none) : Host.Core.run Sys2Proof.core 5 s =
      .next ((commandEffect i ((s.answered es).setDin b)).setRsp (some ⟨0, false⟩)) := by
  have hload := run_ld16 (reg := .din) (fun _ => nofun) hp
  rw [writeBlock_din] at hload
  have hissue := step_issue_performed (st := (s.answered (issue i :: es)).setDin b) hi rfl he hc
  rw [run_add hload 1, run_succ hissue]
  rfl

/-! ## GHASHBUF -/

/-- The state after the GHASH of a block, with `es` still to come. -/
def afterGhash (s : State) (b : Block) (len : BitVec 5) (es : List HostEvent) : State :=
  { s with s := absorb s.h s.s (padBlock (byteCount len) b), din := b, rsp := some ⟨0, false⟩, pending := es }

theorem commandEffect_ghash_loaded (s : State) (b : Block) (len : BitVec 5) (es : List HostEvent) :
    (commandEffect (.ghash len) ((s.answered es).setDin b)).setRsp (some ⟨0, false⟩) = afterGhash s b len es := by
  cases s; rfl

theorem run_ghash {s : State} {b : Block} {len : BitVec 5} {es : List HostEvent}
    (hpend : s.pending = ld16 .din b ++ [issue (.ghash len)] ++ es) (he : s.err = false) (hlen : legalLen len = true) :
    Host.Core.run Sys2Proof.core 5 s = .next (afterGhash s b len es) := by
  rw [List.append_assoc, List.singleton_append] at hpend
  rw [run_ld16_issue (i := .ghash len) nofun hpend he (lenError_legal hlen), commandEffect_ghash_loaded]

/-- The state after the chunks `done` of a GHASHBUF that began in `s₀`, whatever its DIN, response and events. -/
def HashedFrom (s₀ : State) (done : List (List Byte)) (t : State) : Prop := ∃ din rsp es,
  t = { s₀ with
    s := done.foldl (fun a p => absorb s₀.h a (chunkBlock p)) s₀.s, din := din, rsp := rsp, pending := es }

theorem hashedFrom_nil (s : State) : HashedFrom s [] s := ⟨s.din, s.rsp, s.pending, rfl⟩

/-- The five events of a chunk absorb it. -/
theorem run_hashChunk {s₀ : State} (he : s₀.err = false) (done : List (List Byte)) (p : List Byte)
    (es : List HostEvent) (s : State) (hs : HashedFrom s₀ done s) (hp : IsChunk p)
    (hpend : s.pending = ld16 .din (chunkBlock p) ++ [issue (.ghash (BitVec.ofNat 5 p.length))] ++ es) :
    ∃ t, Host.Core.run Sys2Proof.core 5 s = .next t ∧ t.pending = es ∧ HashedFrom s₀ (done ++ [p]) t := by
  obtain ⟨din, rsp, es', rfl⟩ := hs
  refine ⟨_, run_ghash hpend he (legalLen_ofNat_length hp), rfl, chunkBlock p, some ⟨0, false⟩, es, ?_⟩
  rw [afterGhash, padBlock_chunkBlock hp, List.foldl_append, List.foldl_cons, List.foldl_nil]

/-- Settles O49: each chunk is absorbed in turn. -/
theorem ghashbufComputesTheSourcesGhash : Obligations.GhashbufComputesTheSourcesGhash := by
  unfold Obligations.GhashbufComputesTheSourcesGhash
  refine ⟨fun d => ⟨flatten_chunks le_rfl, fun i hi => ?_⟩, fun p k hk => byteAt_chunkBlock p hk,
    fun s d es he hpend => ?_⟩
  · rw [length_chunks le_rfl] at hi ⊢
    rw [length_getD_chunks le_rfl]
    omega
  · obtain ⟨t, hrun, hes, din, rsp, es', rfl⟩ := run_flatMap (run_hashChunk he) (fun _ => isChunk_of_mem_chunks)
      (hashedFrom_nil s) hpend
    cases hes
    exact ⟨din, rsp, hrun⟩

/-! ## CTRBUF -/

@[simp] theorem readReg_setPending (st : State) (es : List HostEvent) (r : Reg) :
    readReg (st.setPending es) r = readReg st r := by cases r <;> rfl

@[simp] theorem readReg_setRsp (st : State) (a : Option Response) (r : Reg) :
    readReg (st.setRsp a) r = readReg st r := by cases r <;> rfl

/-- A read, taken as the next event. -/
theorem step_rd {st : State} {r : Reg} {es : List HostEvent} (hp : st.pending = rd r :: es) :
    step st = .next ((st.setPending es).setRsp (some ⟨readReg st r, false⟩)) := by
  have haligned : Request.aligned ⟨false, r.offset, 2, 0⟩ = true := aligned_iff.2 ⟨rfl, offset_aligned r⟩
  rw [step_event hp, rd, takeEvent, transaction_read haligned rfl, busRead_offset, readReg_setPending]

/-- A run of reads: each is answered with its register's word, and no register changes. -/
theorem run_reads {rs : List Reg} {s : State} {es : List HostEvent} (hp : s.pending = rs.map rd ++ es) {j : Nat}
    (hj : j < rs.length) : Host.Core.run Sys2Proof.core (j + 1) s =
      .next ((s.setPending ((rs.drop (j + 1)).map rd ++ es)).setRsp (some ⟨readReg s rs[j], false⟩)) := by
  induction rs generalizing s j with
  | nil => exact absurd hj (Nat.not_lt_zero j)
  | cons r rs ih =>
    rw [run_succ (step_rd hp)]
    cases j with
    | zero => rfl
    | succ j =>
      refine (ih rfl (Nat.lt_of_succ_lt_succ hj)).trans ?_
      rw [readReg_setRsp, readReg_setPending]
      rfl

/-- The events of CTRBUF for one block, of which `len` bytes are the buffer's (R90). -/
def ctrBlock (b : Block) (len : BitVec 5) : List HostEvent := ld16 .din b ++ issue (.ctrx len) :: rd16 .dout

/-- The events of CTRBUF for one chunk. -/
def ctrChunk (p : List Byte) : List HostEvent := ctrBlock (chunkBlock p) (BitVec.ofNat 5 p.length)

theorem ctrBuf_eq (d : List Byte) : ctrBuf d = (chunks d.length d).flatMap ctrChunk := rfl

/-- What CTRX leaves in DOUT for the block `b` under the counter of `s` (R172). -/
def ctrResult (s : State) (b : Block) (len : BitVec 5) : Block := xorPrefix (byteCount len) b (s.cipher s.ctr)

/-- The state after the CTRX of a block, with `es` still to come. -/
def afterCtrx (s : State) (b : Block) (len : BitVec 5) (es : List HostEvent) : State :=
  { s with din := b, dout := ctrResult s b len, ctr := inc32 s.ctr, rsp := some ⟨0, false⟩, pending := es }

theorem commandEffect_ctrx_loaded (s : State) (b : Block) (len : BitVec 5) (es : List HostEvent) :
    (commandEffect (.ctrx len) ((s.answered es).setDin b)).setRsp (some ⟨0, false⟩) = afterCtrx s b len es := by
  cases s; rfl

theorem run_ctrx {s : State} {b : Block} {len : BitVec 5} {es : List HostEvent}
    (hpend : s.pending = ctrBlock b len ++ es) (he : s.err = false) (hk : s.kvalid = true)
    (hlen : legalLen len = true) :
    Host.Core.run Sys2Proof.core 5 s = .next (afterCtrx s b len (rd16 .dout ++ es)) := by
  rw [ctrBlock, List.append_assoc, List.cons_append] at hpend
  have hcheck : commandCheck (.ctrx len) ((s.answered (rd16 .dout ++ es)).setDin b) = none := by
    rw [commandCheck, lenError_legal hlen, Option.none_or]
    exact keyError_valid hk
  rw [run_ld16_issue (i := .ctrx len) nofun hpend he hcheck, commandEffect_ctrx_loaded]

/-- The reads that follow are answered with the words of the result. -/
theorem run_ctrReads {s : State} {b : Block} {len : BitVec 5} {es : List HostEvent}
    (hpend : s.pending = ctrBlock b len ++ es) (he : s.err = false) (hk : s.kvalid = true)
    (hlen : legalLen len = true) {j : Nat} (hj : j < 4) : Host.Core.run Sys2Proof.core (6 + j) s =
      .next ((afterCtrx s b len ((rd16 .dout).drop (j + 1) ++ es)).setRsp
        (some ⟨be32 (ctrResult s b len) j, false⟩)) := by
  have hsteps : 6 + j = 5 + (j + 1) := by omega
  rw [hsteps, run_add (run_ctrx hpend he hk hlen)]
  refine (run_reads (rs := [.dout 0, .dout 1, .dout 2, .dout 3]) rfl hj).trans ?_
  interval_cases j <;> rfl

/-- The state after `n` chunks of a CTRBUF that began in `s₀`, whatever its DIN, DOUT, response and events. -/
def CountedFrom (s₀ : State) (n : Nat) (t : State) : Prop := ∃ din dout rsp es,
  t = { s₀ with din := din, dout := dout, ctr := inc32^[n] s₀.ctr, rsp := rsp, pending := es }

theorem countedFrom_zero (s : State) : CountedFrom s 0 s := ⟨s.din, s.dout, s.rsp, s.pending, rfl⟩

theorem countedFrom_keeps {s₀ t : State} {n : Nat} (h : CountedFrom s₀ n t) :
    t.err = s₀.err ∧ t.kvalid = s₀.kvalid ∧ t.cipher = s₀.cipher ∧ t.ctr = inc32^[n] s₀.ctr := by
  obtain ⟨din, dout, rsp, es, rfl⟩ := h
  exact ⟨rfl, rfl, rfl, rfl⟩

theorem countedFrom_succ {s₀ t : State} {n : Nat} (h : CountedFrom s₀ n t) (b : Block)
    (len : BitVec 5) (es : List HostEvent) (a : Option Response) :
    CountedFrom s₀ (n + 1) ((afterCtrx t b len es).setRsp a) := by
  obtain ⟨din, dout, rsp, es', ht⟩ := h
  refine ⟨b, ctrResult t b len, a, es, ?_⟩
  rw [Function.iterate_succ_apply', ht]
  rfl

/-- The nine events of a chunk advance the counter once. -/
theorem run_ctrChunk {s₀ : State} (he : s₀.err = false) (hk : s₀.kvalid = true) (done : List (List Byte))
    (p : List Byte) (es : List HostEvent) (s : State) (hs : CountedFrom s₀ done.length s) (hp : IsChunk p)
    (hpend : s.pending = ctrChunk p ++ es) : ∃ t, Host.Core.run Sys2Proof.core 9 s = .next t ∧ t.pending = es ∧
      CountedFrom s₀ (done ++ [p]).length t := by
  obtain ⟨hse, hsk, _, _⟩ := countedFrom_keeps hs
  rw [List.length_append, List.length_singleton]
  exact ⟨_, run_ctrReads hpend (hse.trans he) (hsk.trans hk) (legalLen_ofNat_length hp) (j := 3) (by decide), rfl,
    countedFrom_succ hs _ _ _ _⟩

/-- A run over the first chunks of a CTRBUF. -/
theorem run_ctrChunks {s : State} {ps : List (List Byte)} {es : List HostEvent} (he : s.err = false)
    (hk : s.kvalid = true) (hps : ∀ p ∈ ps, IsChunk p) (hpend : s.pending = ps.flatMap ctrChunk ++ es) :
    ∃ t, Host.Core.run Sys2Proof.core (9 * ps.length) s = .next t ∧ t.pending = es ∧ CountedFrom s ps.length t :=
  run_flatMap (R := fun done => CountedFrom s done.length) (run_ctrChunk he hk) (done := []) hps
    (countedFrom_zero s) hpend

/-- The bytes of CTRX's result for chunk `i` of a buffer. -/
theorem byteAt_ctrResult (s : State) (d : List Byte) (i : Nat) {p : List Byte} (hp : p = (chunks d.length d).getD i [])
    {k : Nat} (hk : k < 16) : byteAt (ctrResult s (chunkBlock p) (BitVec.ofNat 5 p.length)) k =
      if 16 * i + k < d.length then d.getD (16 * i + k) 0 ^^^ byteAt (s.cipher s.ctr) k else 0 := by
  have hlen : p.length = min 16 (d.length - 16 * i) := by rw [hp, length_getD_chunks le_rfl]
  have hbyte : p.getD k 0 = d.getD (16 * i + k) 0 := by
    rw [hp, getD_chunks le_rfl]
    simp [List.getD_eq_getElem?_getD, hk]
  have hlt : k < (BitVec.ofNat 5 p.length).toNat ↔ 16 * i + k < d.length := by
    rw [hlen, BitVec.toNat_ofNat]
    omega
  rw [ctrResult, xorPrefix, byteAt_blockOfBytes _ hk, byteAt_chunkBlock _ hk, hbyte, byteCount]
  simp only [hlt]

/-- The run of CTRBUF up to chunk `i`, whose events come next. -/
theorem run_ctrBuf_to_chunk {s : State} {d : List Byte} {es : List HostEvent} {i : Nat} (he : s.err = false)
    (hk : s.kvalid = true) (hpend : s.pending = ctrBuf d ++ es) (hi : i < (chunks d.length d).length) :
    ∃ t es', Host.Core.run Sys2Proof.core (9 * i) s = .next t ∧ CountedFrom s i t ∧
      t.pending = ctrChunk ((chunks d.length d).getD i []) ++ es' := by
  have hsplit : chunks d.length d = (chunks d.length d).take i ++
      (chunks d.length d).getD i [] :: (chunks d.length d).drop (i + 1) := by
    rw [List.getD_eq_getElem _ _ hi, List.getElem_cons_drop, List.take_append_drop]
  rw [ctrBuf_eq, hsplit, List.flatMap_append, List.append_assoc] at hpend
  obtain ⟨t, hrun, hes, hcount⟩ :=
    run_ctrChunks he hk (fun p hp => isChunk_of_mem_chunks (List.mem_of_mem_take hp)) hpend
  rw [List.length_take_of_le hi.le] at hrun hcount
  rw [List.flatMap_cons, List.append_assoc] at hes
  exact ⟨t, _, hrun, hcount, hes⟩

/-- Settles O55: the chunks before block `b`, then that block's own events; and all the chunks. -/
theorem ctrbufXorsWithSuccessiveKeystreamBlocks : Obligations.CtrbufXorsWithSuccessiveKeystreamBlocks := by
  unfold Obligations.CtrbufXorsWithSuccessiveKeystreamBlocks
  intro s d es he hk hpend
  constructor
  · intro b hb
    have hlt : b < (chunks d.length d).length := by rw [length_chunks le_rfl]; omega
    obtain ⟨t, es', hrun, hcount, hes⟩ := run_ctrBuf_to_chunk he hk hpend hlt
    obtain ⟨hte, htk, hcipher, hctr⟩ := countedFrom_keeps hcount
    generalize hp : (chunks d.length d).getD b [] = p at hes
    have hmem : p ∈ chunks d.length d := by rw [← hp, List.getD_eq_getElem _ _ hlt]; exact List.getElem_mem hlt
    have hlen := legalLen_ofNat_length (isChunk_of_mem_chunks hmem)
    rw [← hte] at he
    rw [← htk] at hk
    refine ⟨ctrResult t (chunkBlock p) (BitVec.ofNat 5 p.length), fun k hk16 => ?_,
      ⟨_, (run_add hrun 5).trans (run_ctrx hes he hk hlen), rfl, ?_⟩, fun j hj => ?_⟩
    · rw [byteAt_ctrResult t d b hp.symm hk16, hcipher, hctr]; rfl
    · rw [Function.iterate_succ_apply', ← hctr]; rfl
    · rw [Nat.add_assoc, run_add hrun]
      exact ⟨_, run_ctrReads hes he hk hlen hj, rfl⟩
  · obtain ⟨t, hrun, hes, din, dout, rsp, es', rfl⟩ :=
      run_ctrChunks he hk (fun _ => isChunk_of_mem_chunks) hpend
    cases hes
    rw [length_chunks le_rfl] at hrun
    exact ⟨din, dout, rsp, hrun⟩

end Sys2Proof.Machine
end

section
/-! PROOFS. The key scheduler (spec/40_key_schedule.md rules R100 to R112): the round constants, the schedule's words by
their recurrence, the round keys as packed words, and what KEYEXP and ZEROIZE do and leave. -/

namespace Sys2Proof.Machine

/-! ## The round constants -/

theorem rcon_zero : rcon 0 = 0x8d := rfl

theorem rcon_succ (j : Nat) : rcon (j + 1) = xtime (rcon j) := rfl

/-- Settles O38: the recurrence is the definition's, and the listed values are sixteen steps of it. -/
theorem rconFollowsTheRecurrence : Obligations.RconFollowsTheRecurrence := by
  unfold Obligations.RconFollowsTheRecurrence
  refine ⟨rcon_zero, fun j hj => ?_, by decide⟩
  obtain ⟨i, rfl⟩ := Nat.exists_eq_add_of_le' hj
  exact rcon_succ i

/-! ## Words of bytes and blocks of words -/

/-- Part `k` of four parts of one width put together, the first part in the most significant bits. -/
theorem extractLsb'_append_four {n k : Nat} (a b c d : BitVec n) (hk : k < 4) :
    (a ++ b ++ c ++ d).extractLsb' (n + n + n + n - n * (k + 1)) n = [a, b, c, d].getD k 0 := by
  refine BitVec.eq_of_getLsbD_eq fun i hi => ?_
  rw [BitVec.getLsbD_extractLsb']
  interval_cases k <;> grind

/-- Byte `k` of a word built from bytes. -/
theorem byteAt_wordOfBytes (b0 b1 b2 b3 : Byte) {k : Nat} (hk : k < 4) :
    byteAt (wordOfBytes b0 b1 b2 b3) k = [b0, b1, b2, b3].getD k 0 := extractLsb'_append_four b0 b1 b2 b3 hk

/-- Word `j` of a block built from words. -/
theorem be32_blockOfWords (w0 w1 w2 w3 : Word) {j : Nat} (hj : j < 4) :
    be32 (blockOfWords w0 w1 w2 w3) j = [w0, w1, w2, w3].getD j 0 := extractLsb'_append_four w0 w1 w2 w3 hj

/-- RotWord as R103 writes it. -/
theorem rotWord_wordOfBytes (a0 a1 a2 a3 : Byte) :
    rotWord (wordOfBytes a0 a1 a2 a3) = wordOfBytes a1 a2 a3 a0 := by
  simp [rotWord, byteAt_wordOfBytes]

/-- SubWord as R104 writes it. -/
theorem subWord_wordOfBytes (a0 a1 a2 a3 : Byte) :
    subWord (wordOfBytes a0 a1 a2 a3) = wordOfBytes (sbox a0) (sbox a1) (sbox a2) (sbox a3) := by
  simp [subWord, byteAt_wordOfBytes]

/-! ## The schedule -/

/-- Every word that the expansion appends is made of the words before it (R105). -/
theorem getD_expandWords_new {nk n i : Nat} {ws : List Word} (hnk : 0 < nk) (hws : nk ≤ ws.length)
    (hi : ws.length ≤ i) (hin : i < ws.length + n) :
    (expandWords nk n ws).getD i 0 =
      (expandWords nk n ws).getD (i - nk) 0 ^^^ scheduleTemp nk i ((expandWords nk n ws).getD (i - 1) 0) := by
  induction n generalizing ws with
  | zero => omega
  | succ n ih =>
    rcases hi.eq_or_lt with rfl | hlt
    · rw [getD_expandWords_next, getD_expandWords_old _ _ _ (i := ws.length - nk) (by omega),
        getD_expandWords_old _ _ _ (i := ws.length - 1) (by omega), nextWord]
    · have hlen : (ws ++ [nextWord nk ws]).length = ws.length + 1 := List.length_append
      exact ih (by omega) (by omega) (by omega)

theorem length_scheduleWords (w : KeyWidth) (key : KeyString) : (scheduleWords w key).length = w.rkWords := by
  rw [scheduleWords, length_expandWords, List.length_map, List.length_range, Nat.add_sub_cancel' (nk_le_rkWords w)]

/-- The first `Nk` words are the key's. -/
theorem getD_scheduleWords_key {w : KeyWidth} (key : KeyString) {i : Nat} (hi : i < w.nk) :
    (scheduleWords w key).getD i 0 = be32 key i := by
  rw [scheduleWords, getD_expandWords_old _ _ _ (by simpa using hi)]
  simp [hi]

/-- The later words follow the recurrence (R105). -/
theorem getD_scheduleWords_new {w : KeyWidth} (key : KeyString) {i : Nat} (hi : w.nk ≤ i) (hiw : i < w.rkWords) :
    (scheduleWords w key).getD i 0 =
      (scheduleWords w key).getD (i - w.nk) 0 ^^^ scheduleTemp w.nk i ((scheduleWords w key).getD (i - 1) 0) := by
  have hlen : ((List.range w.nk).map (be32 key)).length = w.nk := by simp
  have hle := nk_le_rkWords w
  exact getD_expandWords_new (nk_pos w) (by omega) (by omega) (by omega)

/-- Word `c` of round key `r` is word `4r + c` of the schedule (R30, R100). -/
theorem be32_packRoundKey (ws : List Word) (r : Nat) {c : Nat} (hc : c < 4) :
    be32 (packRoundKey ws r) c = ws.getD (4 * r + c) 0 := by
  rw [packRoundKey, be32_blockOfWords _ _ _ _ hc]
  interval_cases c <;> rfl

/-- Settles O37: the expansion appends words by the recurrence and keeps those before. -/
theorem keyScheduleFollowsTheRecurrence : Obligations.KeyScheduleFollowsTheRecurrence := by
  unfold Obligations.KeyScheduleFollowsTheRecurrence
  refine ⟨fun a0 a1 a2 a3 => ⟨rotWord_wordOfBytes a0 a1 a2 a3, subWord_wordOfBytes a0 a1 a2 a3⟩, fun w key =>
    ⟨length_scheduleWords w key, fun i hi => getD_scheduleWords_key key hi,
      fun i hi hiw => getD_scheduleWords_new key hi hiw, length_keyExpand w key, fun r hr c hc => ?_⟩⟩
  rw [getD_keyExpand w key (Nat.lt_succ_of_le hr), be32_packRoundKey _ r hc]

/-! ## KEYEXP -/

theorem encode_keyexp (ksz : BitVec 2) : encode (.keyexp ksz) = 0x00000001 ||| (ksz.setWidth 32 <<< 8) := by
  revert ksz; decide

/-- Settles O11: KSZ against the build's decides which of KEYEXP's two outcomes it is. -/
theorem keyexpExpandsTheKey : Obligations.KeyexpExpandsTheKey := by
  unfold Obligations.KeyexpExpandsTheKey
  refine ⟨encode_keyexp, fun w k k' h => keyExpand_congr h, fun s ksz he => ⟨?_, fun hksz => ?_⟩⟩
  · rintro rfl
    rw [exec_keyexp, kszError_match, runCommand_performed he]
    rfl
  · rw [exec_keyexp, kszError_mismatch hksz, runCommand_rejected he, encode_keyexp]
    rfl

/-! ## ZEROIZE -/

/-- A word with ZEROIZE's opcode that is not ZEROIZE's word sets a reserved bit. -/
theorem decode_near_zeroize {w : Word} (hop : w &&& 0xFF = 0x02) (hne : w ≠ 0x00000002) :
    decode w = .error .rsvdBits := by
  refine decode_rsvdBits_iff_mask.2 ⟨.zeroize, hop, fun hclear => hne ?_⟩
  have hword : w &&& (0xFF ||| reservedMask .n) = 0x02 := (and_or_eq_iff (by decide) (by decide)).2 ⟨hop, hclear⟩
  exact BitVec.and_allOnes.symm.trans hword

/-- Settles O12: the near-ZEROIZE words are illegal, and so recorded or discarded as any illegal word is. -/
theorem zeroizeErasesAllButTheErrorRecord : Obligations.ZeroizeErasesAllButTheErrorRecord := by
  unfold Obligations.ZeroizeErasesAllButTheErrorRecord
  refine ⟨rfl, exec_zeroize, fun s w hop hne => ?_⟩
  have hd := decode_near_zeroize hop hne
  exact ⟨fun he => command_rejected hd he, fun he => command_discarded hd he⟩

end Sys2Proof.Machine
end

section
/-! PROOFS. The block cipher (spec/41_block_cipher.md rules R120 to R141): the round steps byte by byte, the S-box as
the affine map of the GF(2^8) inverse, the cipher as a composition of bijections, and what ENCB and HGEN do. -/

namespace Sys2Proof.Machine

/-! ## The round steps, byte by byte -/

theorem byteAt_subBytes (st : Block) {k : Nat} (hk : k < 16) : byteAt (subBytes st) k = sbox (byteAt st k) :=
  byteAt_blockOfBytes _ hk

theorem byteAt_shiftRows (st : Block) {k : Nat} (hk : k < 16) :
    byteAt (shiftRows st) k = byteAt st (4 * ((k / 4 + k % 4) % 4) + k % 4) := byteAt_blockOfBytes _ hk

/-- `s'[r][c] = s[r][(c + r) mod 4]` (R126). -/
theorem byteAt_shiftRows_column (st : Block) {c r : Nat} (hc : c < 4) (hr : r < 4) :
    byteAt (shiftRows st) (4 * c + r) = byteAt st (4 * ((c + r) % 4) + r) := by
  have hdiv : (4 * c + r) / 4 = c := by omega
  have hmod : (4 * c + r) % 4 = r := by omega
  rw [byteAt_shiftRows st (by omega), hdiv, hmod]

/-- Row `r` of column `c` is the matrix's row `r` on that column (R127). -/
theorem byteAt_mixColumns (st : Block) {c r : Nat} (hc : c < 4) (hr : r < 4) :
    byteAt (mixColumns st) (4 * c + r) = mixByte (byteAt st (4 * c)) (byteAt st (4 * c + 1)) (byteAt st (4 * c + 2))
      (byteAt st (4 * c + 3)) r := by
  have hdiv : (4 * c + r) / 4 = c := by omega
  have hmod : (4 * c + r) % 4 = r := by omega
  rw [mixColumns, byteAt_blockOfBytes _ (by omega), hdiv, hmod]

theorem byteAt_addRoundKey (rk : List Block) (round : Nat) (st : Block) (k : Nat) :
    byteAt (addRoundKey rk round st) k = byteAt st k ^^^ byteAt (rk.getD round 0) k := byteAt_xor _ _ k

/-- Settles O40. -/
theorem roundStepsActByteByByte : Obligations.RoundStepsActByteByByte := by
  unfold Obligations.RoundStepsActByteByByte
  have hperm : ∀ k < 16, 4 * ((k / 4 + k % 4) % 4) + k % 4 =
      [0, 5, 10, 15, 4, 9, 14, 3, 8, 13, 2, 7, 12, 1, 6, 11].getD k 0 := by decide
  refine fun st => ⟨fun k hk => byteAt_subBytes st hk, fun r hr c hc => byteAt_shiftRows_column st hc hr,
    fun k hk => ?_, ?_, fun rk round k _ => byteAt_addRoundKey rk round st k⟩
  · rw [byteAt_shiftRows st hk, hperm k hk]
  · rintro c hc _ _ _ _ rfl rfl rfl rfl
    exact ⟨byteAt_mixColumns st (r := 0) hc (by decide), byteAt_mixColumns st (r := 1) hc (by decide),
      byteAt_mixColumns st (r := 2) hc (by decide), byteAt_mixColumns st (r := 3) hc (by decide)⟩

/-! ## The order of the rounds -/

theorem fullRounds_eq_foldl (rk : List Block) (n : Nat) (st : Block) :
    fullRounds rk n st = (List.range n).foldl (fun st r => fullRound rk (r + 1) st) st := by
  induction n with
  | zero => rfl
  | succ n ih => rw [fullRounds, ih, List.range_succ, List.foldl_concat]

/-- Settles O41: the recursion over the rounds is the fold over their numbers. -/
theorem cipherRunsItsRoundsInOrder : Obligations.CipherRunsItsRoundsInOrder := by
  unfold Obligations.CipherRunsItsRoundsInOrder
  intro nr rk b
  rw [cipher, fullRounds_eq_foldl]
  rfl

/-! ## The S-box -/

/-- The byte that R123's affine map takes to `c`. -/
def sboxAffineInverse (c : Byte) : Byte := c.rotateLeft 1 ^^^ c.rotateLeft 3 ^^^ c.rotateLeft 6

theorem sboxAffine_sboxAffineInverse : Function.RightInverse sboxAffineInverse sboxAffine := by
  unfold Function.RightInverse Function.LeftInverse
  decide +kernel

theorem sboxAffine_bijective : Function.Bijective sboxAffine :=
  sboxAffine_sboxAffineInverse.surjective.bijective_of_finite

/-- The inverse in GF(2^8), with 0 for 0: R123's formula solved for `y`, by the table of R124. -/
def gf8Inverse (b : Byte) : Byte := sboxAffineInverse (sbox b ^^^ 0x63)

/-- R123's formula. -/
theorem sbox_eq_sboxAffine_gf8Inverse (b : Byte) : sbox b = sboxAffine (gf8Inverse b) ^^^ 0x63 := by
  rw [gf8Inverse, sboxAffine_sboxAffineInverse, xor_cancel_right]

theorem gf8Inverse_zero : gf8Inverse 0 = 0 := by decide

/-- The table's `y` is the inverse in the field (R121). -/
theorem gf8mul_gf8Inverse : ∀ b : Byte, b ≠ 0 → gf8mul b (gf8Inverse b) = 1 := by decide +kernel

theorem gf8Inverse_involutive : Function.Involutive gf8Inverse := by
  unfold Function.Involutive
  decide +kernel

/-- The inverse, the affine map and the XOR with 0x63 are bijections. -/
theorem sbox_bijective : Function.Bijective sbox := by
  have hcomp : sbox = (· ^^^ 0x63) ∘ sboxAffine ∘ gf8Inverse := funext sbox_eq_sboxAffine_gf8Inverse
  rw [hcomp]
  exact (xor_left_involutive _).bijective.comp (sboxAffine_bijective.comp gf8Inverse_involutive.bijective)

/-- Settles O42: the inverse is the one that the affine map gives back from the table. -/
theorem sboxIsAffineOfInverse : Obligations.SboxIsAffineOfInverse := by
  unfold Obligations.SboxIsAffineOfInverse
  refine ⟨?_, fun b hb => ⟨gf8Inverse b, gf8mul_gf8Inverse b hb, sbox_eq_sboxAffine_gf8Inverse b⟩, sbox_bijective⟩
  rw [sbox_eq_sboxAffine_gf8Inverse, gf8Inverse_zero]

/-! ## The round steps are bijections -/

theorem bijective_of_comp_self_involutive {α : Type} {f : α → α} (h : Function.Involutive (f ∘ f)) :
    Function.Bijective f := ⟨h.injective.of_comp, h.surjective.of_comp⟩

/-- A block is its sixteen bytes, by column and row (R122). -/
theorem block_ext_columns {a b : Block} (h : ∀ c < 4, ∀ r < 4, byteAt a (4 * c + r) = byteAt b (4 * c + r)) : a = b :=
  block_ext fun k hk => by
    have hk4 := h (k / 4) (by omega) (k % 4) (by omega)
    rwa [Nat.div_add_mod] at hk4

theorem subBytes_bijective : Function.Bijective subBytes := by
  refine Function.Injective.bijective_of_finite fun a b hab => block_ext fun k hk => sbox_bijective.injective ?_
  rw [← byteAt_subBytes a hk, ← byteAt_subBytes b hk, hab]

/-- ShiftRows twice rotates every row by twice its number, and so four times by none. -/
theorem shiftRows_comp_self_involutive : Function.Involutive (shiftRows ∘ shiftRows) := by
  refine fun st => block_ext_columns fun c hc r hr => ?_
  simp only [Function.comp_apply]
  rw [byteAt_shiftRows_column _ hc hr, byteAt_shiftRows_column _ (by omega) hr,
    byteAt_shiftRows_column _ (by omega) hr, byteAt_shiftRows_column _ (by omega) hr]
  have hrot : ((((c + r) % 4 + r) % 4 + r) % 4 + r) % 4 = c := by omega
  rw [hrot]

theorem xor_left_comm {w : Nat} (a b c : BitVec w) : a ^^^ (b ^^^ c) = b ^^^ (a ^^^ c) := by ac_rfl

/-- Multiplication by 02 is linear over GF(2). -/
theorem xtime_xor (a b : Byte) : xtime (a ^^^ b) = xtime a ^^^ xtime b := by
  simp only [xtime, BitVec.shiftLeft_xor_distrib, BitVec.getLsbD_xor]
  cases a.getLsbD 7 <;> cases b.getLsbD 7 <;> simp [BitVec.xor_assoc, BitVec.xor_comm, xor_left_comm]

/-- R127's sum for row `r` as the byte, the column's sum and 02 times the sum of the byte and the next one. -/
theorem mixByte_eq (a0 a1 a2 a3 : Byte) {r : Nat} (hr : r < 4) :
    mixByte a0 a1 a2 a3 r = [a0, a1, a2, a3].getD r 0 ^^^ (a0 ^^^ a1 ^^^ a2 ^^^ a3) ^^^
      xtime ([a0, a1, a2, a3].getD r 0 ^^^ [a0, a1, a2, a3].getD ((r + 1) % 4) 0) := by
  interval_cases r <;> simp [mixByte, xtime_xor, BitVec.xor_assoc, BitVec.xor_comm, xor_left_comm]

/-- MixColumns keeps the sum of a column. -/
theorem mixByte_sum (a0 a1 a2 a3 : Byte) :
    mixByte a0 a1 a2 a3 0 ^^^ mixByte a0 a1 a2 a3 1 ^^^ mixByte a0 a1 a2 a3 2 ^^^ mixByte a0 a1 a2 a3 3 =
      a0 ^^^ a1 ^^^ a2 ^^^ a3 := by
  simp [mixByte, BitVec.xor_assoc, BitVec.xor_comm, xor_left_comm]

/-- The square of R127's matrix has 05 on the diagonal, 04 two rows away and 00 elsewhere. -/
theorem mixByte_mixByte (a0 a1 a2 a3 : Byte) {r : Nat} (hr : r < 4) :
    mixByte (mixByte a0 a1 a2 a3 0) (mixByte a0 a1 a2 a3 1) (mixByte a0 a1 a2 a3 2) (mixByte a0 a1 a2 a3 3) r =
      [a0, a1, a2, a3].getD r 0 ^^^
        xtime (xtime ([a0, a1, a2, a3].getD r 0 ^^^ [a0, a1, a2, a3].getD ((r + 2) % 4) 0)) := by
  rw [mixByte_eq _ _ _ _ hr, mixByte_sum]
  interval_cases r <;> simp [mixByte_eq, xtime_xor, BitVec.xor_assoc, BitVec.xor_comm, xor_left_comm]

/-- A byte after MixColumns twice, by the square of the matrix. -/
theorem byteAt_mixColumns_mixColumns (st : Block) {c r : Nat} (hc : c < 4) (hr : r < 4) :
    byteAt (mixColumns (mixColumns st)) (4 * c + r) = byteAt st (4 * c + r) ^^^
      xtime (xtime (byteAt st (4 * c + r) ^^^ byteAt st (4 * c + (r + 2) % 4))) := by
  have hrow0 : byteAt (mixColumns st) (4 * c) = mixByte _ _ _ _ 0 := byteAt_mixColumns st (r := 0) hc (by decide)
  rw [byteAt_mixColumns _ hc hr, hrow0, byteAt_mixColumns st (r := 1) hc (by decide),
    byteAt_mixColumns st (r := 2) hc (by decide), byteAt_mixColumns st (r := 3) hc (by decide),
    mixByte_mixByte _ _ _ _ hr]
  interval_cases r <;> rfl

/-- MixColumns four times is the identity: in the square of the square the 04 terms cancel. -/
theorem mixColumns_comp_self_involutive : Function.Involutive (mixColumns ∘ mixColumns) := by
  refine fun st => block_ext_columns fun c hc r hr => ?_
  have hback : ((r + 2) % 4 + 2) % 4 = r := by omega
  simp only [Function.comp_apply]
  rw [byteAt_mixColumns_mixColumns _ hc hr, byteAt_mixColumns_mixColumns st hc hr,
    byteAt_mixColumns_mixColumns st hc (r := (r + 2) % 4) (by omega), hback]
  simp [xtime_xor, BitVec.xor_comm, xor_left_comm]

theorem addRoundKey_bijective (rk : List Block) (round : Nat) : Function.Bijective (addRoundKey rk round) :=
  (xor_left_involutive _).bijective

/-! ## The cipher is a bijection -/

theorem shiftRows_subBytes_bijective : Function.Bijective (shiftRows ∘ subBytes) :=
  (bijective_of_comp_self_involutive shiftRows_comp_self_involutive).comp subBytes_bijective

theorem fullRound_bijective (rk : List Block) (round : Nat) : Function.Bijective (fullRound rk round) :=
  (addRoundKey_bijective rk round).comp
    ((bijective_of_comp_self_involutive mixColumns_comp_self_involutive).comp shiftRows_subBytes_bijective)

theorem fullRounds_bijective (rk : List Block) (n : Nat) : Function.Bijective (fullRounds rk n) := by
  induction n with
  | zero => exact Function.bijective_id
  | succ n ih => exact (fullRound_bijective rk (n + 1)).comp ih

theorem finalRound_bijective (rk : List Block) (nr : Nat) : Function.Bijective (finalRound rk nr) :=
  (addRoundKey_bijective rk nr).comp shiftRows_subBytes_bijective

/-- Settles O43: every step of the cipher is a bijection. -/
theorem cipherIsABijectionOfBlocks : Obligations.CipherIsABijectionOfBlocks := by
  unfold Obligations.CipherIsABijectionOfBlocks
  exact fun nr rk => (finalRound_bijective rk nr).comp ((fullRounds_bijective rk _).comp (addRoundKey_bijective rk 0))

/-! ## ENCB and HGEN -/

/-- A command whose one check is NOKEY, with ERR = 0: KVALID decides between performance and rejection. -/
theorem runCommand_keyError {w : Word} {p st : State} (he : st.err = false) :
    (st.kvalid = true → runCommand w (keyError st) p st = .next p) ∧
    (st.kvalid = false → runCommand w (keyError st) p st = .next (st.raiseCmdError .noKey w)) := by
  constructor <;> intro hk
  · rw [keyError_valid hk, runCommand_performed he]
  · rw [keyError_invalid hk, runCommand_rejected he]

/-- Settles O13. -/
theorem encbEncryptsDinIntoDout : Obligations.EncbEncryptsDinIntoDout := by
  unfold Obligations.EncbEncryptsDinIntoDout
  refine ⟨rfl, fun s he => ?_⟩
  rw [exec_encb]
  exact runCommand_keyError he

/-- Settles O14. -/
theorem hgenEncryptsZeroIntoH : Obligations.HgenEncryptsZeroIntoH := by
  unfold Obligations.HgenEncryptsZeroIntoH
  refine ⟨rfl, fun s he => ?_⟩
  rw [exec_hgen]
  exact runCommand_keyError he

end Sys2Proof.Machine
end

section
/-! PROOFS. The multiplier's shift on the bytes of a block (spec/42_gf128.md rules R150, R151). -/

namespace Sys2Proof.Machine

/-! ## The right shift, byte by byte -/

theorem getLsbD_byteAt_shiftRight (v : Block) (k i : Nat) :
    (byteAt (v >>> 1) k).getLsbD i = (decide (i < 8) && v.getLsbD (1 + (128 - 8 * (k + 1) + i))) := by
  rw [getLsbD_byteAt, BitVec.getLsbD_ushiftRight]

theorem byteAt_shiftRight_zero (v : Block) : byteAt (v >>> 1) 0 = byteAt v 0 >>> 1 := by
  refine BitVec.eq_of_getLsbD_eq fun i hi => ?_
  rw [getLsbD_byteAt_shiftRight, BitVec.getLsbD_ushiftRight, getLsbD_byteAt, Nat.add_left_comm]
  by_cases hlast : i = 7
  · subst hlast
    exact BitVec.getLsbD_of_ge v 128 (by decide)
  · have hin : 1 + i < 8 := by omega
    simp only [hi, hin]

theorem getLsbD_and_one_shiftLeft_seven (b : Byte) {i : Nat} (hi : i < 8) :
    ((b &&& 1) <<< 7).getLsbD i = (decide (i = 7) && b.getLsbD 0) := by
  by_cases hlast : i = 7
  · subst hlast
    simp
  · have hlow : i < 7 := by omega
    simp [hlast, hlow]

/-- Byte `k + 1` takes its bits from itself, and its most significant one from the byte before it (R151). -/
theorem byteAt_shiftRight_succ (v : Block) {k : Nat} (hk : k < 15) :
    byteAt (v >>> 1) (k + 1) = (byteAt v (k + 1) >>> 1) ||| ((byteAt v k &&& 1) <<< 7) := by
  refine BitVec.eq_of_getLsbD_eq fun i hi => ?_
  rw [getLsbD_byteAt_shiftRight, BitVec.getLsbD_or, BitVec.getLsbD_ushiftRight, getLsbD_and_one_shiftLeft_seven _ hi,
    getLsbD_byteAt, getLsbD_byteAt, Nat.add_left_comm 1]
  by_cases hlast : i = 7
  · have hpos : 128 - 8 * (k + 1 + 1) + 8 = 128 - 8 * (k + 1) := by omega
    simp [hlast, hpos]
  · have hin : 1 + i < 8 := by omega
    simp [hi, hin, hlast]

/-! ## The multiplier's shift, byte by byte -/

/-- The bit that the shift drops is the low bit of byte 15. -/
theorem byteAt_15_and_one_eq_one_iff (v : Block) : byteAt v 15 &&& 1 = 1 ↔ v.getLsbD 0 = true := by
  have hlow : ∀ b : Byte, b &&& 1 = 1 ↔ b.getLsbD 0 = true := by decide
  rw [hlow, getLsbD_byteAt]
  simp

theorem byteAt_gcmFeedback : ∀ k < 16, byteAt gcmFeedback k = if k = 0 then 0xE1 else 0 := by decide

/-- The multiplier's shift is the right shift, with 0xE1 in byte 0 when the bit shifted out is 1 (R150). -/
theorem byteAt_gmulShift (v : Block) {k : Nat} (hk : k < 16) : byteAt (gmulShift v) k =
    byteAt (v >>> 1) k ^^^ (if byteAt v 15 &&& 1 = 1 ∧ k = 0 then 0xE1 else 0) := by
  simp only [gmulShift, byteAt_xor, byteAt_15_and_one_eq_one_iff]
  cases v.getLsbD 0 with
  | false => simp [byteAt]
  | true => simp [byteAt_gcmFeedback k hk]

/-- Settles O45: the multiplier's shift is the right shift, and byte 0 alone takes the feedback. -/
theorem blockShiftCarriesAcrossBytes : Obligations.BlockShiftCarriesAcrossBytes := by
  unfold Obligations.BlockShiftCarriesAcrossBytes
  intro v
  have hshift : ∀ k, 1 ≤ k → k < 16 →
      byteAt (v >>> 1) k = (byteAt v k >>> 1) ||| ((byteAt v (k - 1) &&& 1) <<< 7) := by
    intro k hpos hk
    obtain ⟨j, rfl⟩ := Nat.exists_eq_add_of_le' hpos
    exact byteAt_shiftRight_succ v (by omega)
  refine ⟨byteAt_shiftRight_zero v, hshift, ?_, fun k hpos hk => ?_⟩
  · rw [byteAt_gmulShift v (by decide), byteAt_shiftRight_zero]
    simp
  · have hne : k ≠ 0 := by omega
    rw [byteAt_gmulShift v hk, hshift k hpos hk]
    simp [hne]

/-- Settles O44: the sequences are the two components of `gmulLoop`. -/
theorem gmulFollowsTheLoop : Obligations.GmulFollowsTheLoop := by
  unfold Obligations.GmulFollowsTheLoop
  intro x y
  refine ⟨fun n => (gmulLoop x y n).1, fun n => (gmulLoop x y n).2, rfl, rfl, gmul_eq_gmulLoop x y,
    fun i _ => ⟨?_, fun k hk => ?_⟩⟩
  · simp only [gmulLoop_succ]
    rfl
  · simp only [gmulLoop_succ]
    exact byteAt_gmulShift _ hk

end Sys2Proof.Machine
end

section
/-! PROOFS. The consequences of the field reading (spec/42_gf128.md rule R152): a block is determined by its field
element, so the laws of the ring hold of gmul; and the command GMUL (rule R155). -/

namespace Sys2Proof.Machine

open Polynomial

/-! ## A block is determined by its field element -/

theorem coeff_bitsPoly (n : Nat) (a : Block) (i : Nat) :
    (bitsPoly n a).coeff i = if i < n ∧ gcmBit a i then 1 else 0 := by
  induction n with
  | zero => simp
  | succ n ih =>
    rw [bitsPoly_succ, coeff_add, ih]
    by_cases hin : i = n
    · subst hin
      cases gcmBit a i <;> simp
    · have hlt : i < n + 1 ↔ i < n := by omega
      have hterm : (if gcmBit a n then X ^ n else 0 : (ZMod 2)[X]).coeff i = 0 := by
        cases gcmBit a n <;> simp [coeff_X_pow, hin]
      rw [hterm, add_zero]
      simp only [hlt]

theorem gcmBit_eq_decide_coeff (a : Block) {i : Nat} (hi : i < 128) :
    gcmBit a i = decide ((bitsPoly 128 a).coeff i = 1) := by
  rw [coeff_bitsPoly]
  cases gcmBit a i <;> simp [hi]

theorem bitsPoly_injective : Function.Injective (bitsPoly 128) := by
  intro a b hab
  refine BitVec.eq_of_getMsbD_eq fun i hi => ?_
  rw [← gcmBit_eq_getMsbD a hi, ← gcmBit_eq_getMsbD b hi, gcmBit_eq_decide_coeff a hi,
    gcmBit_eq_decide_coeff b hi, hab]

theorem degree_bitsPoly_lt (a : Block) : (bitsPoly 128 a).degree < (128 : Nat) := by
  refine (degree_lt_iff_coeff_zero _ _).2 fun i hi => ?_
  rw [coeff_bitsPoly, if_neg fun ⟨hlt, _⟩ => hlt.not_ge hi]

theorem gcmModulus_eq : gcmModulus = X ^ 128 + bitsPoly 128 gcmFeedback := by
  rw [bitsPoly_gcmFeedback]
  unfold gcmModulus
  ring

theorem gcmModulus_monic : gcmModulus.Monic := by
  rw [gcmModulus_eq]
  exact monic_X_pow_add (degree_bitsPoly_lt _)

theorem degree_bitsPoly_lt_degree_gcmModulus (a : Block) : (bitsPoly 128 a).degree < gcmModulus.degree := by
  have hlt : ∀ b, (bitsPoly 128 b).degree < (X ^ 128 : (ZMod 2)[X]).degree := fun b => by
    rw [degree_X_pow]
    exact degree_bitsPoly_lt b
  rw [gcmModulus_eq, degree_add_eq_left_of_degree_lt (hlt _)]
  exact hlt a

/-- Polynomials of lower degree than a monic modulus that agree modulo it are equal. -/
theorem eq_of_mk_eq_mk {f p q : (ZMod 2)[X]} (hf : f.Monic) (hp : p.degree < f.degree) (hq : q.degree < f.degree)
    (h : AdjoinRoot.mk f p = AdjoinRoot.mk f q) : p = q := by
  have hdvd : f ∣ p - q := AdjoinRoot.mk_eq_mk.1 h
  have hdegree : (p - q).degree < f.degree := (degree_sub_le p q).trans_lt (max_lt hp hq)
  by_contra hne
  exact hf.not_dvd_of_degree_lt (sub_ne_zero.2 hne) hdegree hdvd

theorem gfElement_injective : Function.Injective gfElement := fun a b hab =>
  bitsPoly_injective (eq_of_mk_eq_mk gcmModulus_monic (degree_bitsPoly_lt_degree_gcmModulus a)
    (degree_bitsPoly_lt_degree_gcmModulus b) hab)

/-! ## The ring laws of gmul -/

/-- The block `80 00 .. 00`, the polynomial 1 (R152). -/
def gcmOne : Block := 0x80000000000000000000000000000000

theorem gcmBit_gcmOne : ∀ i < 128, gcmBit gcmOne i = decide (i = 0) := by decide

theorem gfElement_gcmOne : gfElement gcmOne = 1 := by
  have hpoly : bitsPoly 128 gcmOne = ∑ i ∈ Finset.range 128, if i = 0 then X ^ i else 0 :=
    Finset.sum_congr rfl fun i hi => by simp [gcmBit_gcmOne i (Finset.mem_range.1 hi)]
  rw [gfElement, hpoly]
  simp

theorem gmul_comm (x y : Block) : gmul x y = gmul y x :=
  gfElement_injective (by rw [gfElement_gmul, gfElement_gmul, mul_comm])

theorem gmul_assoc (x y z : Block) : gmul (gmul x y) z = gmul x (gmul y z) :=
  gfElement_injective (by simp only [gfElement_gmul, mul_assoc])

theorem xor_gmul (x y z : Block) : gmul (x ^^^ y) z = gmul x z ^^^ gmul y z :=
  gfElement_injective (by simp only [gfElement_gmul, gfElement_xor, add_mul])

theorem zero_gmul (y : Block) : gmul 0 y = 0 :=
  gfElement_injective (by rw [gfElement_gmul, show gfElement 0 = 0 from gfElement_zero, zero_mul])

theorem gmul_zero (x : Block) : gmul x 0 = 0 := by rw [gmul_comm, zero_gmul]

theorem gcmOne_gmul (y : Block) : gmul gcmOne y = y :=
  gfElement_injective (by rw [gfElement_gmul, gfElement_gcmOne, one_mul])

theorem gmul_gcmOne (x : Block) : gmul x gcmOne = x := by rw [gmul_comm, gcmOne_gmul]

/-- Settles O47: gmul is the product of a commutative ring in which blocks embed. -/
theorem gmulIsACommutativeRingProduct : Obligations.GmulIsACommutativeRingProduct := by
  unfold Obligations.GmulIsACommutativeRingProduct
  exact fun x y z => ⟨gmul_comm x y, gmul_assoc x y z, xor_gmul x y z, zero_gmul y, gcmOne_gmul y⟩

/-! ## GMUL -/

/-- Settles O15: GMUL has no check of its own, and the corner cases are the ring's zero and identity. -/
theorem gmulMultipliesDinByH : Obligations.GmulMultipliesDinByH := by
  unfold Obligations.GmulMultipliesDinByH
  refine ⟨rfl, fun s he => ?_, fun x => ⟨zero_gmul x, gmul_zero x, gmul_gcmOne x⟩⟩
  rw [exec_gmul]
  exact runCommand_performed he

end Sys2Proof.Machine
end

section
/-! PROOFS. GHINIT and GHASH (spec/43_ghash.md rules R160 to R162): GHINIT as four zero writes to S, and GHASH's two
outcomes by the legality of LEN. -/

namespace Sys2Proof.Machine

/-! ## The padded block -/

/-- The padded block depends on the first `n` bytes alone. -/
theorem padBlock_congr {n : Nat} {a b : Block} (h : ∀ k < n, byteAt a k = byteAt b k) : padBlock n a = padBlock n b :=
  block_ext fun k hk => by
    rw [byteAt_padBlock n a hk, byteAt_padBlock n b hk]
    split
    case isTrue hkn => exact h k hkn
    case isFalse => rfl

/-! ## LEN -/

theorem legalLen_eq_true_iff {len : BitVec 5} : legalLen len = true ↔ 1 ≤ len.toNat ∧ len.toNat ≤ 16 := by
  simp [legalLen]

theorem legalLen_eq_false_iff {len : BitVec 5} : legalLen len = false ↔ len.toNat = 0 ∨ 16 < len.toNat := by
  rw [Bool.eq_false_iff, Ne, legalLen_eq_true_iff]
  omega

/-! ## GHASH -/

theorem encode_ghash (len : BitVec 5) : encode (.ghash len) = 0x00000031 ||| (len.setWidth 32 <<< 8) := by
  revert len; decide

theorem exec_ghash_legal {st : State} {len : BitVec 5} (he : st.err = false) (hlen : legalLen len = true) :
    exec (.ghash len) st = .next (st.setS (absorb st.h st.s (padBlock len.toNat st.din))) := by
  rw [exec_ghash, lenError_legal hlen, runCommand_performed he, byteCount]

theorem exec_ghash_illegal {st : State} {len : BitVec 5} (he : st.err = false) (hlen : legalLen len = false) :
    exec (.ghash len) st = .next (st.raiseCmdError .badLen (encode (.ghash len))) := by
  rw [exec_ghash, lenError_illegal hlen, runCommand_rejected he]

/-- Settles O17: the block absorbed is the padded one, and LEN against 1 to 16 decides between GHASH's two outcomes. -/
theorem ghashAbsorbsThePaddedPrefix : Obligations.GhashAbsorbsThePaddedPrefix := by
  unfold Obligations.GhashAbsorbsThePaddedPrefix
  refine ⟨encode_ghash, gmul_zero, fun s len he => ⟨fun hpos hle => ?_, fun hbad => ?_⟩⟩
  · exact ⟨padBlock len.toNat s.din, fun k hk => byteAt_padBlock _ _ hk,
      exec_ghash_legal he (legalLen_eq_true_iff.2 ⟨hpos, hle⟩)⟩
  · rw [exec_ghash_illegal he (legalLen_eq_false_iff.2 hbad), encode_ghash]
    rfl

/-- Settles O48: two DINs that agree on the first LEN bytes are padded to the same block. -/
theorem ghashIgnoresBytesPastLen : Obligations.GhashIgnoresBytesPastLen := by
  unfold Obligations.GhashIgnoresBytesPastLen
  intro s len d he hlen hd
  refine ⟨absorb s.h s.s (padBlock len.toNat s.din), exec_ghash_legal he hlen, ?_⟩
  rw [← padBlock_congr hd]
  exact exec_ghash_legal (st := s.setDin d) he hlen

/-! ## GHINIT -/

theorem be32_zero {w : Nat} (j : Nat) : be32 (0 : BitVec w) j = 0 := by simp [be32]

/-- Settles O16: the four writes of zeros are the word writes that load the zero block into S. -/
theorem ghinitClearsS : Obligations.GhinitClearsS := by
  unfold Obligations.GhinitClearsS
  refine ⟨rfl, fun s he => ?_⟩
  have hexec : exec .ghinit s = .next (s.setS 0) := by rw [exec_ghinit, runCommand_performed he]
  have hload : writeBlock .s 0 s = s.setS 0 := writeBlock_s 0 s
  simp only [writeBlock, be32_zero] at hload
  have hwrite : ∀ (j : Fin 4) (st : State), busWrite (Reg.s j).offset 0 st = .next (writeReg st 0 (.s j)) :=
    fun j st => busWrite_offset (r := .s j) nofun 0 st
  refine ⟨hexec, _, _, _, hwrite 0 s, hwrite 1 _, hwrite 2 _, ?_⟩
  rw [hexec, ← hload]
  exact hwrite 3 _

end Sys2Proof.Machine
end

section
/-! PROOFS. The counter and its commands (spec/44_ctr.md rules R170 to R176): `inc32` word by word, CTRX's and CTRINC's
outcomes, and a run of CTRX commands. -/

namespace Sys2Proof.Machine

/-! ## inc32 -/

theorem be32_inc32_last (c : Block) : be32 (inc32 c) 3 = be32 c 3 + 1 := be32_setBe32_same c 3 _ (by decide)

theorem be32_inc32_of_lt (c : Block) {j : Nat} (hj : j < 3) : be32 (inc32 c) j = be32 c j :=
  be32_setBe32_ne c 3 j _ (by decide) (by omega) (by omega)

/-- Blocks whose first three words agree have the same first twelve bytes. -/
theorem byteAt_eq_of_be32_eq {a b : Block} (h : ∀ j < 3, be32 a j = be32 b j) {k : Nat} (hk : k < 12) :
    byteAt a k = byteAt b k := by
  rw [← byteAt_be32 a (by omega), ← byteAt_be32 b (by omega), h (k / 4) (by omega)]

/-- Settles O50: `inc32` writes the last word alone. -/
theorem inc32AddsOneToTheLastWord : Obligations.Inc32AddsOneToTheLastWord := by
  unfold Obligations.Inc32AddsOneToTheLastWord
  refine fun c => ⟨?_, fun k hk => byteAt_eq_of_be32_eq (fun j hj => be32_inc32_of_lt c hj) hk⟩
  rw [be32_inc32_last, BitVec.toNat_add]
  rfl

theorem be32_iterate_inc32_last (c : Block) (n : Nat) : be32 (inc32^[n] c) 3 = be32 c 3 + BitVec.ofNat 32 n := by
  induction n with
  | zero => exact (BitVec.add_zero _).symm
  | succ n ih => rw [Function.iterate_succ_apply', be32_inc32_last, ih, BitVec.ofNat_add, BitVec.add_assoc]; rfl

theorem be32_iterate_inc32_of_lt (c : Block) (n : Nat) {j : Nat} (hj : j < 3) :
    be32 (inc32^[n] c) j = be32 c j := by
  induction n with
  | zero => rfl
  | succ n ih => rw [Function.iterate_succ_apply', be32_inc32_of_lt _ hj, ih]

/-- As the first three words stay, the last word decides whether the counter is back where it began. -/
theorem iterate_inc32_eq_self_iff (c : Block) (n : Nat) : inc32^[n] c = c ↔ BitVec.ofNat 32 n = 0 := by
  rw [← add_eq_left (a := be32 c 3), ← be32_iterate_inc32_last]
  refine ⟨fun h => by rw [h], fun h => block_ext_words fun j hj => ?_⟩
  by_cases hlast : j = 3
  · rw [hlast, h]
  · exact be32_iterate_inc32_of_lt c n (by omega)

/-- Settles O51. -/
theorem counterRepeatsAfterTwoToThirtyTwo : Obligations.CounterRepeatsAfterTwoToThirtyTwo := by
  unfold Obligations.CounterRepeatsAfterTwoToThirtyTwo
  refine fun c n => ⟨?_, fun k hk => byteAt_eq_of_be32_eq (fun j hj => be32_iterate_inc32_of_lt c n hj) hk, ?_⟩
  · rw [be32_iterate_inc32_last, BitVec.toNat_add, BitVec.toNat_ofNat, Nat.add_mod_mod]
  · rw [iterate_inc32_eq_self_iff, ← BitVec.toNat_inj, BitVec.toNat_ofNat, Nat.dvd_iff_mod_eq_zero]
    rfl

/-! ## CTRINC -/

/-- Settles O19: CTRINC has no check of its own. -/
theorem ctrincAdvancesTheCounter : Obligations.CtrincAdvancesTheCounter := by
  unfold Obligations.CtrincAdvancesTheCounter
  refine ⟨rfl, fun s he => ?_⟩
  rw [exec_ctrinc]
  exact runCommand_performed he

/-! ## CTRX -/

theorem encode_ctrx (len : BitVec 5) : encode (.ctrx len) = 0x00000040 ||| (len.setWidth 32 <<< 8) := by
  revert len; decide

theorem byteAt_xorPrefix (n : Nat) (din ks : Block) {k : Nat} (hk : k < 16) :
    byteAt (xorPrefix n din ks) k = if k < n then byteAt din k ^^^ byteAt ks k else 0 := byteAt_blockOfBytes _ hk

/-- CTRX with a legal LEN has one check left, NOKEY. -/
theorem exec_ctrx_legal {len : BitVec 5} (hlen : legalLen len = true) (st : State) :
    exec (.ctrx len) st = runCommand (encode (.ctrx len)) (keyError st) (commandEffect (.ctrx len) st) st := by
  rw [exec_eq_runCommand (i := .ctrx len) nofun, commandCheck, lenError_legal hlen, Option.none_or]

theorem exec_ctrx_performed {st : State} {len : BitVec 5} (he : st.err = false) (hk : st.kvalid = true)
    (hlen : legalLen len = true) : exec (.ctrx len) st = .next (commandEffect (.ctrx len) st) := by
  rw [exec_ctrx_legal hlen]
  exact (runCommand_keyError he).1 hk

theorem exec_ctrx_noKey {st : State} {len : BitVec 5} (he : st.err = false) (hk : st.kvalid = false)
    (hlen : legalLen len = true) : exec (.ctrx len) st = .next (st.raiseCmdError .noKey (encode (.ctrx len))) := by
  rw [exec_ctrx_legal hlen]
  exact (runCommand_keyError he).2 hk

/-- BAD_LEN comes first, whatever KVALID is (R183). -/
theorem exec_ctrx_illegal {st : State} {len : BitVec 5} (he : st.err = false) (hlen : legalLen len = false) :
    exec (.ctrx len) st = .next (st.raiseCmdError .badLen (encode (.ctrx len))) := by
  rw [exec_ctrx, lenError_illegal hlen, Option.some_or, runCommand_rejected he]

/-- Settles O18: LEN against 1 to 16, then KVALID, decide between CTRX's three outcomes. -/
theorem ctrxXorsKeystreamAndAdvances : Obligations.CtrxXorsKeystreamAndAdvances := by
  unfold Obligations.CtrxXorsKeystreamAndAdvances
  refine ⟨encode_ctrx, fun s len he => ⟨fun hpos hle hk => ?_, fun hbad => ?_, fun hpos hle hk => ?_⟩⟩
  · exact ⟨xorPrefix len.toNat s.din (s.cipher s.ctr), fun k hk16 => byteAt_xorPrefix _ _ _ hk16,
      exec_ctrx_performed he hk (legalLen_eq_true_iff.2 ⟨hpos, hle⟩)⟩
  · rw [exec_ctrx_illegal he (legalLen_eq_false_iff.2 hbad), encode_ctrx]
    rfl
  · rw [exec_ctrx_noKey he hk (legalLen_eq_true_iff.2 ⟨hpos, hle⟩), encode_ctrx]
    rfl

/-! ## A run of CTRX commands -/

theorem execAll_cons {i : Instr} {is : List Instr} {s t : State} (h : exec i s = .next t) :
    execAll (i :: is) s = execAll is t := by
  rw [execAll, h]

/-- Each CTRX but the last counts for its increment alone: the last one's DOUT stands over the others'. -/
theorem execAll_ctrx {s : State} {lens : List (BitVec 5)} {len : BitVec 5} (he : s.err = false)
    (hk : s.kvalid = true) (hlens : ∀ l ∈ lens, legalLen l = true) (hlen : legalLen len = true) :
    execAll ((lens ++ [len]).map .ctrx) s =
      .next (commandEffect (.ctrx len) (s.setCtr (inc32^[lens.length] s.ctr))) := by
  induction lens generalizing s with
  | nil => exact execAll_cons (exec_ctrx_performed he hk hlen)
  | cons l lens ih =>
    have hfirst := exec_ctrx_performed he hk (hlens l (.head _))
    exact (execAll_cons hfirst).trans (ih (s := commandEffect (.ctrx l) s) he hk fun m hm => hlens m (.tail _ hm))

/-- Settles O52. -/
theorem ctrxRunUsesSuccessiveCounters : Obligations.CtrxRunUsesSuccessiveCounters := by
  unfold Obligations.CtrxRunUsesSuccessiveCounters
  intro s lens len he hk hlens hlen
  refine ⟨xorPrefix len.toNat s.din (s.cipher (inc32^[lens.length] s.ctr)),
    fun k hk16 => byteAt_xorPrefix _ _ _ hk16, ?_⟩
  rw [execAll_ctrx he hk hlens hlen, Function.iterate_succ_apply']
  rfl

/-! ## CTRX twice -/

/-- XORing the same keystream twice leaves the first `n` bytes, padded. -/
theorem xorPrefix_xorPrefix (n : Nat) (din ks : Block) : xorPrefix n (xorPrefix n din ks) ks = padBlock n din :=
  block_ext fun k hk => by
    rw [byteAt_xorPrefix _ _ _ hk, byteAt_xorPrefix _ _ _ hk, byteAt_padBlock _ _ hk]
    split
    case isTrue => rw [BitVec.xor_assoc, BitVec.xor_self, BitVec.xor_zero]
    case isFalse => rfl

/-- Settles O53: both commands use the same keystream block. -/
theorem ctrxUndoesItself : Obligations.CtrxUndoesItself := by
  unfold Obligations.CtrxUndoesItself
  intro s len he hk hlen
  refine ⟨_, _, exec_ctrx_performed he hk hlen, exec_ctrx_performed he hk hlen, fun k hk16 => ?_⟩
  have hdout := xorPrefix_xorPrefix len.toNat s.din (s.cipher s.ctr)
  exact (congrArg (byteAt · k) hdout).trans (byteAt_padBlock _ _ hk16)

end Sys2Proof.Machine
end

section
/-! PROOFS. Errors and fail-stop (spec/60_exceptions.md rules R180 to R187): a command word's outcome by the error it has,
R183's pseudocode against that error, and what leaves the error record as it is. -/

namespace Sys2Proof.Machine

/-! ## What keeps the error record -/

/-- The second state has the first one's ERR, ERRCODE and ERRCMD. -/
def State.SameRecord (st t : State) : Prop := t.err = st.err ∧ t.errcode = st.errcode ∧ t.errcmd = st.errcmd

/-- No performed command touches the record, ZEROIZE among them (R185). -/
theorem commandWrites_sameRecord {st u : State} {i : Instr} (hu : CommandWrites st i u) : st.SameRecord u := by
  cases hu <;> exact ⟨rfl, rfl, rfl⟩

theorem commandEffect_err (i : Instr) (st : State) : (commandEffect i st).err = st.err :=
  (commandWrites_sameRecord (commandEffect_writes i st)).1

theorem writeReg_sameRecord (st : State) (v : Word) {r : Reg} (hr : r ≠ .status) : st.SameRecord (writeReg st v r) := by
  cases r with
  | status => exact absurd rfl hr
  | _ => exact ⟨rfl, rfl, rfl⟩

/-! ## Rejection -/

/-- With ERR = 0 a command word that has an error is recorded with it and abandoned (R182). -/
theorem command_of_commandError {w : Word} {c : CmdError} {st : State} (he : st.err = false)
    (hc : commandError w st = some c) : command w st = .next (st.raiseCmdError c w) := by
  cases hd : decode w with
  | error e =>
    rw [commandError_error hd] at hc
    cases hc
    exact command_rejected hd he
  | ok i =>
    rw [commandError_ok hd] at hc
    have hi : i ≠ .zeroize := by rintro rfl; cases hc
    rw [command_ok hd, exec_eq_runCommand hi, hc, runCommand_rejected he, encode_of_decode hd]

/-- With ERR = 0 a command whose check passes is performed. -/
theorem exec_of_commandCheck {i : Instr} {st : State} (he : st.err = false) (hc : commandCheck i st = none) :
    exec i st = .next (commandEffect i st) := by
  by_cases hi : i = .zeroize
  · rw [hi]; rfl
  · rw [exec_eq_runCommand hi, hc, runCommand_performed he]

/-- A word without an error is a command whose check passes. -/
theorem decode_of_commandError_none {w : Word} {st : State} (h : commandError w st = none) :
    ∃ i, decode w = .ok i ∧ commandCheck i st = none := by
  cases hd : decode w with
  | error e => rw [commandError_error hd] at h; cases h
  | ok i => exact ⟨i, rfl, (commandError_ok hd st).symm.trans h⟩

/-- Settles O20: with ERR = 0 a word is rejected or performed, and a performed command leaves ERR = 0. -/
theorem rejectionOnlyRecordsTheError : Obligations.RejectionOnlyRecordsTheError := by
  unfold Obligations.RejectionOnlyRecordsTheError
  intro w s t he hstep ht
  rcases command_cases hstep with ⟨herr, _⟩ | ⟨_, c, _, rfl⟩ | ⟨i, _, _, _, rfl⟩
  · exact absurd (he.symm.trans herr) Bool.false_ne_true
  · exact ⟨c, rfl⟩
  · have hnoerr : (commandEffect i s).err = false := (commandEffect_err i s).trans he
    exact absurd (hnoerr.symm.trans ht) Bool.false_ne_true

/-! ## R183's pseudocode -/

theorem toNat_opField (w : Word) : (opField w).toNat = w.toNat % 2 ^ 8 := by
  simp [opField]

/-- The lowest bit that a format reserves (R81). -/
def reservedFrom : Format → Nat
  | .n => 8
  | .k => 10
  | .l => 13

theorem extractLsb'_eq_zero_iff_div {w : Word} {n : Nat} (hn : n ≤ 32) :
    w.extractLsb' n (32 - n) = 0 ↔ w.toNat / 2 ^ n = 0 := by
  have hlt : w.toNat / 2 ^ n < 2 ^ (32 - n) := by
    rw [Nat.div_lt_iff_lt_mul (Nat.two_pow_pos n), ← Nat.pow_add, Nat.sub_add_cancel hn]
    exact w.isLt
  rw [← BitVec.toNat_inj, BitVec.extractLsb'_toNat, Nat.shiftRight_eq_div_pow, Nat.mod_eq_of_lt hlt]
  rfl

theorem reservedClear_iff_div {f : Format} {w : Word} :
    reservedClear f w = true ↔ w.toNat / 2 ^ reservedFrom f = 0 := by
  cases f with
  | n => exact beq_iff_eq.trans (extractLsb'_eq_zero_iff_div (n := 8) (by decide))
  | k => exact beq_iff_eq.trans (extractLsb'_eq_zero_iff_div (n := 10) (by decide))
  | l => exact beq_iff_eq.trans (extractLsb'_eq_zero_iff_div (n := 13) (by decide))

/-- The opcodes by their numbers (R85). -/
theorem exists_opcode_iff (n : Nat) : (∃ i, n = (opcode i).toNat) ↔
    n ∈ [0x01, 0x02, 0x10, 0x11, 0x20, 0x30, 0x31, 0x40, 0x41] := by
  constructor
  · rintro ⟨i, rfl⟩
    cases i <;> simp [opcode]
  · simp only [List.mem_cons, List.not_mem_nil, or_false]
    rintro (rfl | rfl | rfl | rfl | rfl | rfl | rfl | rfl | rfl)
    exacts [⟨.keyexp 0, rfl⟩, ⟨.zeroize, rfl⟩, ⟨.encb, rfl⟩, ⟨.hgen, rfl⟩, ⟨.gmul, rfl⟩, ⟨.ghinit, rfl⟩,
      ⟨.ghash 0, rfl⟩, ⟨.ctrx 0, rfl⟩, ⟨.ctrinc, rfl⟩]

/-- Check 1: a word that selects no row. -/
theorem firstFailingCheck_unassigned {w : Word} (h : select w = none) (kw : KeyWidth) (kvalid : Bool) :
    firstFailingCheck kw kvalid w = some .illegalOp := by
  refine if_pos fun hmem => ?_
  obtain ⟨i, hi⟩ := (exists_opcode_iff _).2 hmem
  exact select_eq_none_iff.1 h i (BitVec.eq_of_toNat_eq ((toNat_opField w).trans hi))

/-- Check 2: a word with a command's opcode and a bit set that the command's format reserves. -/
theorem firstFailingCheck_reserved {w : Word} {i : Instr} (hop : opField w = opcode i)
    (hr : reservedClear (format i) w = false) (kw : KeyWidth) (kvalid : Bool) :
    firstFailingCheck kw kvalid w = some .rsvdBits := by
  have hnum : w.toNat % 2 ^ 8 = (opcode i).toNat := by rw [← toNat_opField, hop]
  have hset : w.toNat / 2 ^ reservedFrom (format i) ≠ 0 := fun hclear => by
    rw [reservedClear_iff_div.2 hclear] at hr; cases hr
  refine (if_neg (not_not.2 ((exists_opcode_iff _).1 ⟨i, hnum⟩))).trans (if_pos ?_)
  rw [hnum]
  cases i with
  | keyexp ksz => exact .inr (.inl ⟨rfl, hset⟩)
  | ghash len => exact .inr (.inr ⟨.head _, hset⟩)
  | ctrx len => exact .inr (.inr ⟨.tail _ (.head _), hset⟩)
  | _ => exact .inl ⟨by decide, hset⟩

/-- The key width as a check on the code that KEYEXP's word carries (check 4). -/
theorem firstFailingCheck_keyexp (kw : KeyWidth) : ∀ (kvalid : Bool) (ksz : BitVec 2),
    firstFailingCheck kw kvalid (encode (.keyexp ksz)) = if ksz = kw.ksz then none else some .keySize := by
  cases kw <;> decide

/-- LEN as a check on the words of GHASH and CTRX, before CTRX's KVALID (checks 3 and 5). -/
theorem firstFailingCheck_length (kw : KeyWidth) : ∀ (kvalid : Bool) (len : BitVec 5),
    firstFailingCheck kw kvalid (encode (.ghash len)) = lenError len ∧
    firstFailingCheck kw kvalid (encode (.ctrx len)) = (lenError len).or (if kvalid then none else some .noKey) := by
  cases kw <;> decide

/-- KVALID as a check on the words of ENCB and HGEN (check 5). -/
theorem firstFailingCheck_key (kw : KeyWidth) : ∀ kvalid : Bool,
    firstFailingCheck kw kvalid (encode .encb) = (if kvalid then none else some .noKey) ∧
    firstFailingCheck kw kvalid (encode .hgen) = (if kvalid then none else some .noKey) := by
  cases kw <;> decide

/-- Checks 3 to 5 on the word of a command are the command's own check. -/
theorem firstFailingCheck_encode (i : Instr) (st : State) :
    firstFailingCheck st.keyw st.kvalid (encode i) = commandCheck i st := by
  cases i with
  | keyexp ksz => exact firstFailingCheck_keyexp _ _ ksz
  | encb => exact (firstFailingCheck_key _ _).1
  | hgen => exact (firstFailingCheck_key _ _).2
  | ghash len => exact (firstFailingCheck_length _ _ len).1
  | ctrx len => exact (firstFailingCheck_length _ _ len).2
  | _ => rfl

/-- The checks of R183 on the raw word are the decoder's and then the command's. -/
theorem firstFailingCheck_eq_commandError (w : Word) (st : State) :
    firstFailingCheck st.keyw st.kvalid w = commandError w st := by
  cases hd : decode w with
  | ok i => rw [commandError_ok hd, ← encode_of_decode hd, firstFailingCheck_encode]
  | error c =>
    rw [commandError_error hd]
    rcases decode_error hd with rfl | rfl
    · exact firstFailingCheck_unassigned (decode_illegalOp_iff.1 hd) _ _
    · obtain ⟨f, i, hs, hr⟩ := decode_rsvdBits_iff.1 hd
      obtain ⟨hop, rfl⟩ := select_some hs
      exact firstFailingCheck_reserved hop hr _ _

/-- Settles O21: the first failing check of R183 is the word's error. -/
theorem checksFailInTheSpecsOrder : Obligations.ChecksFailInTheSpecsOrder := by
  unfold Obligations.ChecksFailInTheSpecsOrder
  refine ⟨⟨rfl, rfl, rfl, rfl, rfl⟩, fun w s he => ?_⟩
  rw [firstFailingCheck_eq_commandError]
  refine ⟨fun c hc => command_of_commandError he hc, fun hnone => ?_⟩
  obtain ⟨i, hd, hcheck⟩ := decode_of_commandError_none hnone
  exact ⟨i, _, hd, command_ok hd s, exec_of_commandCheck he hcheck, (commandEffect_err i s).trans he⟩

/-! ## Fail-stop -/

/-- While ERR = 1 every word but ZEROIZE's is discarded (R184). -/
theorem command_failStop {w : Word} {st : State} (he : st.err = true) (hw : w ≠ encode .zeroize) :
    command w st = .next st := by
  cases hd : decode w with
  | error c => exact command_discarded hd he
  | ok i =>
    have hi : i ≠ .zeroize := by rintro rfl; exact hw (encode_of_decode hd).symm
    rw [command_ok hd, exec_discarded hi he]

/-- In fail-stop a step is ClearError, or reset, or keeps the record. -/
theorem step_failStop {s t : State} (he : s.err = true) (h : step s = .next t) :
    ((s.nextIsClearError ∨ s.nextIsReset) ∧ t.err = false) ∨ s.SameRecord t := by
  cases step_effect h with
  | quiet es a => exact .inr ⟨rfl, rfl, rfl⟩
  | reset q es hp => exact .inl ⟨.inr ⟨q, es, hp⟩, rfl⟩
  | rejected w c es hp hnoerr hc => exact absurd (hnoerr.symm.trans he) Bool.false_ne_true
  | performed i es u hp hnoerr hc hu => exact .inr (commandWrites_sameRecord (st := s.setPending es) (u := u) hu)
  | cleared v es hp hv => exact .inl ⟨.inl ⟨v, es, hv, hp⟩, rfl⟩
  | written r v es hp hcmd hstatus => exact .inr (writeReg_sameRecord (s.setPending es) v hstatus)

/-- Settles O22. -/
theorem failStopDiscardsUntilCleared : Obligations.FailStopDiscardsUntilCleared := by
  unfold Obligations.FailStopDiscardsUntilCleared
  refine ⟨fun s w he hw => command_failStop he hw, fun s off _ => ⟨fun v hoff => ?_, fun v ha => ?_⟩,
    fun s t he hstep => ?_⟩
  · exact busWrite_of_ne_cmd (mt regAt_eq_cmd.1 hoff) v s
  · exact transaction_read (aligned_iff.2 ⟨rfl, ha⟩) rfl s
  · rcases step_failStop he hstep with ⟨hout, ht⟩ | ⟨herr, hcode, hcmd⟩
    · exact ⟨fun _ => hout, fun h => absurd (ht.symm.trans h) Bool.false_ne_true⟩
    · exact ⟨fun h => absurd (h.symm.trans (herr.trans he)) Bool.false_ne_true, fun _ => ⟨hcode, hcmd⟩⟩

/-! ## ClearError -/

/-- With ERR = 0 the record is empty already, and clearing it changes nothing (R187). -/
theorem clearError_eq_self {st : State} (hsound : st.errRecordSound) (he : st.err = false) : st.clearError = st := by
  obtain ⟨hcode, hcmd⟩ := hsound.1 he
  rw [State.clearError, ← he, ← hcode, ← hcmd]

/-- A write to STATUS is ClearError if bit 1 is set, and nothing if it is not. -/
theorem busWrite_status (v : Word) (st : State) :
    busWrite 0x0C v st = .next (if v.getLsbD 1 then st.clearError else st) :=
  busWrite_offset (r := .status) nofun v st

/-- Settles O23. -/
theorem clearErrorClearsTheRecordAlone : Obligations.ClearErrorClearsTheRecordAlone := by
  unfold Obligations.ClearErrorClearsTheRecordAlone
  refine fun s v => ⟨fun hv => ?_, fun hv hsound he => ?_, fun hv => ?_⟩
  · rw [busWrite_status, if_pos hv]; rfl
  · rw [busWrite_status, if_pos hv, clearError_eq_self hsound he]
  · rw [busWrite_status, if_neg (Bool.eq_false_iff.1 hv)]

end Sys2Proof.Machine
end

section
/-! PROOFS. Reset (spec/70_reset_and_hazards.md rule R210): the state it gives, register by register. -/

namespace Sys2Proof.Machine

/-- Reset abandons the request in progress, if there is one: the request has no part in the state it gives (R210). -/
theorem takeEvent_reset (st : State) (r : Option Request) : takeEvent st (.reset r) = .next st.applyReset := rfl

/-- Reset does not change the build, so CFG reads as before. -/
theorem busRead_cfg_applyReset (st : State) : busRead 0x04 st.applyReset = busRead 0x04 st := by
  rw [busRead_cfg, busRead_cfg, applyReset_keyw]

/-- Settles O27: the state is `applyReset`'s, and its registers are read off one by one. -/
theorem resetSetsEveryRegister : Obligations.ResetSetsEveryRegister := by
  unfold Obligations.ResetSetsEveryRegister
  intro s r
  exact ⟨s.applyReset, takeEvent_reset s r,
    applyReset_key s, applyReset_rk s, applyReset_din s, applyReset_dout s, applyReset_h s, applyReset_s s,
    applyReset_ctr s, applyReset_kvalid s, applyReset_err s, applyReset_errcode s, applyReset_errcmd s,
    applyReset_rsp s, busRead_id s.applyReset, busRead_cfg_applyReset s⟩

end Sys2Proof.Machine
end
